-- ==== Sys2Proof/Word.lean ====
section
/-! DEFINITION. The widths of the spec (00_scope.md R11) and the request pair a host
presents to the block (30_encoding.md R64). -/

namespace Sys2Proof

/-- An unsigned integer 0..255 (R11). -/
abbrev Byte := BitVec 8

/-- An unsigned 16-bit integer (R11). -/
abbrev U16 := BitVec 16

/-- An unsigned 32-bit integer (R11). -/
abbrev U32 := BitVec 32

/-- One request `(W, S)`: the 16-bit request word and the operand byte sequence, whose
length is delivered with it (R64, R71). How the length is carried is not modelled (D6, U3). -/
structure Request where
  word : U16
  seq  : List Byte
deriving DecidableEq, Repr

end Sys2Proof
end

