-- ==== Sys2Proof/Config.lean ====
section
/-! DEFINITION. What an implementation of the block fixes and the spec leaves open (00_scope.md
R9): two parameters, each with the default R9 gives. A `Config` is plain data and stands in
`State`, where no step writes it; a statement about every state is a statement about every
value of both parameters (log entries 2 and 3). -/

namespace Sys2Proof

/-- The open parameters of R9. -/
structure Config where
  /-- `F32_SENTINEL`: the pattern DEC.F32 returns on short input (R9, R100, D10). -/
  f32Sentinel : U32
  /-- `SEQ_MAX`: the longest operand sequence of CRC, VFY and DEC; `none` is unbounded
  (R9, R69 item 6, D6). -/
  seqMax : Option Nat
deriving DecidableEq, Repr

/-- The defaults of R9: `F32_SENTINEL` = 0x7FC00000 and an unbounded `SEQ_MAX`. -/
def Config.default : Config := { f32Sentinel := 0x7FC00000, seqMax := none }

end Sys2Proof
end

