-- ==== Sys2Proof/Syntax.lean ====
section
/-! DEFINITION. The fifteen operations of spec/opcode_table.json (30_encoding.md R67, R68),
with the operands R65 and R72 give each of them. -/

namespace Sys2Proof

/-- One legal request, read: the operation and its operands. -/
inductive Instr where
  /-- `CRC {s...}` (41_codec.md R122). -/
  | crc (s : List Byte)
  /-- `ENC a, c, {p0, ..., p5}` (41_codec.md R130): `S = [addr, cmd, p0..p5]` (R65). -/
  | enc (addr cmd : Byte) (payload : Vector Byte 6)
  /-- `VFY {s...}` (41_codec.md R135). -/
  | vfy (s : List Byte)
  /-- `CLR` (42_assembler.md R155). -/
  | clr
  /-- `RXB b` (42_assembler.md R160). -/
  | rxb (b : Byte)
  /-- `ABT` (42_assembler.md R166). -/
  | abt
  /-- `CAN` (42_assembler.md R168). -/
  | can
  /-- `DEC.U16 o, {s...}` (40_decoders.md R104). -/
  | decU16 (o : Byte) (s : List Byte)
  /-- `DEC.I16 o, {s...}` (40_decoders.md R106). -/
  | decI16 (o : Byte) (s : List Byte)
  /-- `DEC.U32 o, {s...}` (40_decoders.md R108). -/
  | decU32 (o : Byte) (s : List Byte)
  /-- `DEC.F32 o, {s...}` (40_decoders.md R112). -/
  | decF32 (o : Byte) (s : List Byte)
  /-- `RDST` (42_assembler.md R172). -/
  | rdst
  /-- `RDRX i` (42_assembler.md R175). -/
  | rdrx (i : Byte)
  /-- `RDFR` (42_assembler.md R178). -/
  | rdfr
  /-- `RDTX i` (42_assembler.md R180). -/
  | rdtx (i : Byte)
deriving DecidableEq, Repr

end Sys2Proof
end

