-- ==== Sys2Proof/WellFormed.lean ====
section
/-! DEFINITION. When an instruction is one a legal request can spell: the operand sequence of
CRC, VFY and DEC is at most `SEQ_MAX` bytes where the instance bounds it (30_encoding.md R69
item 6). Every other limit of R69 is in the type of `Instr` already. -/

namespace Sys2Proof

/-- `|S| ≤ SEQ_MAX`, which holds of every `S` when `SEQ_MAX` is unbounded (R69 item 6). -/
def fitsSeqMax (seqMax : Option Nat) (s : List Byte) : Bool :=
  match seqMax with
  | none => true
  | some k => decide (s.length ≤ k)

/-- The well-formed instructions of an instance with the bound `seqMax`. -/
def Instr.wf (seqMax : Option Nat) : Instr → Bool
  | .crc s => fitsSeqMax seqMax s
  | .enc _ _ _ => true
  | .vfy s => fitsSeqMax seqMax s
  | .clr => true
  | .rxb _ => true
  | .abt => true
  | .can => true
  | .decU16 _ s => fitsSeqMax seqMax s
  | .decI16 _ s => fitsSeqMax seqMax s
  | .decU32 _ s => fitsSeqMax seqMax s
  | .decF32 _ s => fitsSeqMax seqMax s
  | .rdst => true
  | .rdrx _ => true
  | .rdfr => true
  | .rdtx _ => true

end Sys2Proof
end

