-- ==== Sys2Proof/Decode.lean ====
section
/-! DEFINITION. The request decoder (30_encoding.md R64 to R69), total on every `(W, S)`, which
names why a request is illegal; then the encoder (R72), the pseudo-operations (R73) and the
match and mask of each row of spec/opcode_table.json. -/

namespace Sys2Proof

/-! ### The fields of a request word (R64) -/

/-- `OP = W[15:12]`. -/
def opOf (w : U16) : BitVec 4 := w.extractLsb' 12 4

/-- `FN = W[11:8]`. -/
def fnOf (w : U16) : BitVec 4 := w.extractLsb' 8 4

/-- `IMM = W[7:0]`. -/
def immOf (w : U16) : Byte := w.extractLsb' 0 8

/-- The request word with the given fields. -/
def mkWord (op fn : BitVec 4) (imm : Byte) : U16 := op ++ fn ++ imm

/-! ### Legality (R69) -/

/-- Why a request is illegal: one name for each numbered condition of R69. The block's answer is
the same for all of them. -/
inductive Illegal where
  /-- Item 1: `OP ∈ {0x0, 0xD, 0xE, 0xF}`. -/
  | reservedOp
  /-- Item 2: `OP = 0x8` and `FN > 3`. -/
  | reservedFn
  /-- Item 3: `OP ≠ 0x8` and `FN ≠ 0`. -/
  | fnNotZero
  /-- Item 4: `IMM ≠ 0` where it must be 0. -/
  | immNotZero
  /-- Item 5: `|S|` differs from the count the operation requires. -/
  | wrongCount
  /-- Item 6: `|S| > SEQ_MAX` in an instance that bounds it. -/
  | seqTooLong
deriving DecidableEq, Repr

/-- The operand count R67 requires for `OP`; `none` where any length will do (or where `OP` is
reserved). -/
def requiredCount (op : BitVec 4) : Option Nat :=
  if op = 0x1 ∨ op = 0x3 ∨ op = 0x8 then none
  else if op = 0x2 then some 8
  else if op = 0x0 ∨ op = 0xD ∨ op = 0xE ∨ op = 0xF then none
  else some 0

/-- `|S| > SEQ_MAX`, in an instance that bounds `SEQ_MAX`. -/
def exceedsSeqMax (seqMax : Option Nat) (s : List Byte) : Bool :=
  match seqMax with
  | none => false
  | some k => decide (k < s.length)

/-- The six conditions of R69, in its order; `none` when the request is legal. -/
def illegality (seqMax : Option Nat) (r : Request) : Option Illegal :=
  let op := opOf r.word
  let fn := fnOf r.word
  let imm := immOf r.word
  if op = 0x0 ∨ op = 0xD ∨ op = 0xE ∨ op = 0xF then some .reservedOp
  else if op = 0x8 ∧ 3 < fn then some .reservedFn
  else if op ≠ 0x8 ∧ fn ≠ 0 then some .fnNotZero
  else if ¬(op = 0x5 ∨ op = 0x8 ∨ op = 0xA ∨ op = 0xC) ∧ imm ≠ 0 then some .immNotZero
  else if (requiredCount op).any (· != r.seq.length) then some .wrongCount
  else if (op = 0x1 ∨ op = 0x3 ∨ op = 0x8) ∧ exceedsSeqMax seqMax r.seq = true then
    some .seqTooLong
  else none

/-! ### Reading a legal request (R65, R67, R68) -/

/-- ENC's positional operands: `addr = S[0]`, `cmd = S[1]`, `payload = S[2..8)` (R65). -/
def readEnc : List Byte → Except Illegal Instr
  | [a, c, p0, p1, p2, p3, p4, p5] => .ok (.enc a c #v[p0, p1, p2, p3, p4, p5])
  | _ => .error .wrongCount

/-- The decoder kind `FN` selects (R68). -/
def readDec (fn : BitVec 4) (o : Byte) (s : List Byte) : Except Illegal Instr :=
  if fn = 0 then .ok (.decU16 o s)
  else if fn = 1 then .ok (.decI16 o s)
  else if fn = 2 then .ok (.decU32 o s)
  else if fn = 3 then .ok (.decF32 o s)
  else .error .reservedFn

/-- The operation map of R67, for the fields of a request that R69 does not refuse. -/
def readOp (op fn : BitVec 4) (imm : Byte) (s : List Byte) : Except Illegal Instr :=
  if op = 0x1 then .ok (.crc s)
  else if op = 0x2 then readEnc s
  else if op = 0x3 then .ok (.vfy s)
  else if op = 0x4 then .ok .clr
  else if op = 0x5 then .ok (.rxb imm)
  else if op = 0x6 then .ok .abt
  else if op = 0x7 then .ok .can
  else if op = 0x8 then readDec fn imm s
  else if op = 0x9 then .ok .rdst
  else if op = 0xA then .ok (.rdrx imm)
  else if op = 0xB then .ok .rdfr
  else if op = 0xC then .ok (.rdtx imm)
  else .error .reservedOp

/-- What the request spells: an instruction, or the reason it is illegal (R69: every `(W, S)` is
legal with one meaning, or illegal). -/
def decode (seqMax : Option Nat) (r : Request) : Except Illegal Instr :=
  match illegality seqMax r with
  | some e => .error e
  | none => readOp (opOf r.word) (fnOf r.word) (immOf r.word) r.seq

/-! ### The host's table of words -/

/-- The low `n` bytes of `w` above its first 16 bits, as operand bytes in sequence order. -/
def tableBytes (n w : Nat) : List Byte :=
  (List.range n).map fun k => BitVec.ofNat 8 (w >>> (16 + 8 * k))

/-- The request an opcode-table row's bits stand for: the first 16 bits are `W`; the bits above
them are operand bytes; an operation that requires more operand bytes than the row has bits for
has zeros in their place (log entry 5). -/
def tableRequest (nbits w : Nat) : Request :=
  let word : U16 := BitVec.ofNat 16 w
  let need := (requiredCount (opOf word)).getD 0
  { word := word, seq := tableBytes (max ((nbits - 16) / 8) need) (w % 2 ^ nbits) }

/-- The instruction the decoder reads from an opcode-table row's bits, `SEQ_MAX` at its
default. -/
def decodeTableWord (nbits w : Nat) : Option Instr :=
  match decode Config.default.seqMax (tableRequest nbits w) with
  | .ok i => some i
  | .error _ => none

/-! ### The encoder (R72) -/

/-- The request that spells an instruction, from the syntax table of R72. -/
def encode : Instr → Request
  | .crc s => { word := mkWord 0x1 0x0 0x00, seq := s }
  | .enc a c p => { word := mkWord 0x2 0x0 0x00, seq := a :: c :: p.toList }
  | .vfy s => { word := mkWord 0x3 0x0 0x00, seq := s }
  | .clr => { word := mkWord 0x4 0x0 0x00, seq := [] }
  | .rxb b => { word := mkWord 0x5 0x0 b, seq := [] }
  | .abt => { word := mkWord 0x6 0x0 0x00, seq := [] }
  | .can => { word := mkWord 0x7 0x0 0x00, seq := [] }
  | .decU16 o s => { word := mkWord 0x8 0x0 o, seq := s }
  | .decI16 o s => { word := mkWord 0x8 0x1 o, seq := s }
  | .decU32 o s => { word := mkWord 0x8 0x2 o, seq := s }
  | .decF32 o s => { word := mkWord 0x8 0x3 o, seq := s }
  | .rdst => { word := mkWord 0x9 0x0 0x00, seq := [] }
  | .rdrx i => { word := mkWord 0xA 0x0 i, seq := [] }
  | .rdfr => { word := mkWord 0xB 0x0 0x00, seq := [] }
  | .rdtx i => { word := mkWord 0xC 0x0 i, seq := [] }

/-! ### The written form (R72), bytes in decimal -/

/-- `{b0, b1, ...}`, the braces by their character codes. -/
def braced (s : List Byte) : String :=
  String.singleton (Char.ofNat 123) ++ String.intercalate ", " (s.map fun b => toString b.toNat) ++
    String.singleton (Char.ofNat 125)

/-- The mnemonic and operands of one request, as R72 writes them. -/
def textOf : Instr → String
  | .crc s => "CRC " ++ braced s
  | .enc a c p => "ENC " ++ toString a.toNat ++ ", " ++ toString c.toNat ++ ", " ++ braced p.toList
  | .vfy s => "VFY " ++ braced s
  | .clr => "CLR"
  | .rxb b => "RXB " ++ toString b.toNat
  | .abt => "ABT"
  | .can => "CAN"
  | .decU16 o s => "DEC.U16 " ++ toString o.toNat ++ ", " ++ braced s
  | .decI16 o s => "DEC.I16 " ++ toString o.toNat ++ ", " ++ braced s
  | .decU32 o s => "DEC.U32 " ++ toString o.toNat ++ ", " ++ braced s
  | .decF32 o s => "DEC.F32 " ++ toString o.toNat ++ ", " ++ braced s
  | .rdst => "RDST"
  | .rdrx i => "RDRX " ++ toString i.toNat
  | .rdfr => "RDFR"
  | .rdtx i => "RDTX " ++ toString i.toNat

/-! ### The pseudo-operations (R73): each stands for the listed requests, in order -/

/-- `RXN {b0, ..., bk}`: one RXB for each byte. -/
def expandRxn (bs : List Byte) : List Instr := bs.map Instr.rxb

/-- `ENCM a, mt, g`: ENC with command 0x3B and payload `{mt, g, 0, 0, 0, 0}`, `g ∈ {0, 1}`. -/
def expandEncm (a mt : Byte) (g : Bool) : List Instr :=
  [.enc a 0x3B #v[mt, if g then 1 else 0, 0, 0, 0, 0]]

/-- `ENCZ a, c`: ENC with an all-zero payload. -/
def expandEncz (a c : Byte) : List Instr := [.enc a c #v[0, 0, 0, 0, 0, 0]]

/-- `ENCS a, c, sel`: ENC with payload `{sel, 0, 0, 0, 0, 0}`. -/
def expandEncs (a c sel : Byte) : List Instr := [.enc a c #v[sel, 0, 0, 0, 0, 0]]

/-! ### The rows of spec/opcode_table.json -/

/-- The `match` of the instruction's row. -/
def tableMatch : Instr → U16
  | .crc _ => 0x1000
  | .enc _ _ _ => 0x2000
  | .vfy _ => 0x3000
  | .clr => 0x4000
  | .rxb _ => 0x5000
  | .abt => 0x6000
  | .can => 0x7000
  | .decU16 _ _ => 0x8000
  | .decI16 _ _ => 0x8100
  | .decU32 _ _ => 0x8200
  | .decF32 _ _ => 0x8300
  | .rdst => 0x9000
  | .rdrx _ => 0xA000
  | .rdfr => 0xB000
  | .rdtx _ => 0xC000

/-- The `mask` of the instruction's row. -/
def tableMask : Instr → U16
  | .crc _ => 0xFFFF
  | .enc _ _ _ => 0xFFFF
  | .vfy _ => 0xFFFF
  | .clr => 0xFFFF
  | .rxb _ => 0xFF00
  | .abt => 0xFFFF
  | .can => 0xFFFF
  | .decU16 _ _ => 0xFF00
  | .decI16 _ _ => 0xFF00
  | .decU32 _ _ => 0xFF00
  | .decF32 _ _ => 0xFF00
  | .rdst => 0xFFFF
  | .rdrx _ => 0xFF00
  | .rdfr => 0xFFFF
  | .rdtx _ => 0xFF00

end Sys2Proof
end

