-- ==== Sys2Proof/Machine/State.lean ====
section
/-! DEFINITION. The state of the block (10_state.md R20), the record of its interface to the one
host (30_encoding.md R64, R66; 20_memory.md R49), its reset values (R32) and the reasons a step
can stop. -/

namespace Sys2Proof.Machine

/-- `ASM`, the assembler's phase (R20, R21). The value 3 never occurs (R21, U7). -/
inductive Asm where
  | idle
  | assembling
  | done
deriving DecidableEq, Repr

/-- `RES`, the outcome of the current attempt (R20, R22). -/
inductive Res where
  | none
  | ok
  | crcError
  | lengthError
deriving DecidableEq, Repr

/-- The response status `ST` (60_exceptions.md R200). Codes 6 and 7 are never returned. -/
inductive Status where
  | ok
  | crcError
  | lengthError
  | illegal
  | notReady
  | badIndex
deriving DecidableEq, Repr

/-- The response record (30_encoding.md R66): the status is always present; `none` is an absent
field, which holds no value. -/
structure Response where
  /-- `ST` -/
  st    : Status
  /-- `CRC` -/
  crc   : Option U16 := .none
  /-- `RCV` -/
  rcv   : Option U16 := .none
  /-- `FRAME` -/
  frame : Option (List Byte) := .none
  /-- `VAL` -/
  val   : Option U32 := .none
  /-- `SHORT` -/
  short : Option Bool := .none
  /-- `BYTE` -/
  byte  : Option Byte := .none
  /-- `STATV` -/
  statv : Option Byte := .none
  /-- `ACC` -/
  acc   : Option Bool := .none
deriving DecidableEq, Repr

/-- What the host does to the block: it presents a request (R64), or the reset event happens
between two requests (70_reset_and_hazards.md R230). -/
inductive Input where
  | request (r : Request)
  | reset
deriving DecidableEq, Repr

/-- The block's state tuple `(ASM, RES, RXCNT, RXBUF, TXBUF)`, "and nothing else" (R20). -/
structure Block where
  /-- `ASM` -/
  asm   : Asm
  /-- `RES` -/
  res   : Res
  /-- `RXCNT`, a natural 0..8. -/
  rxcnt : Fin 9
  /-- `RXBUF[0..7]`; `none` is `⊥`, a cell that holds no value. -/
  rxbuf : Vector (Option Byte) 8
  /-- `TXBUF`; `none` is `⊥`, no frame yet. -/
  txbuf : Option (Vector Byte 10)
deriving DecidableEq, Repr

/-- The block, its open parameters, and the record of its interface. -/
structure State where
  /-- The state the spec gives the block (R20). -/
  block     : Block
  /-- The instance's parameters (R9); no step writes them. -/
  cfg       : Config
  /-- MODEL's own: what the host will present, in issue order (R49; log entry 1). -/
  inputs    : List Input
  /-- MODEL's own: the responses returned so far, oldest first (R66; log entry 1). -/
  responses : List Response
deriving DecidableEq, Repr

/-- Why a step stops. Both reasons are met only in states that break the invariants R23, which
no run from reset reaches, and both are safe: the model has no value to go on with (log entry 4). -/
inductive Fault where
  /-- RXB while `ASM = ASSEMBLING` and `RXCNT = 8`: there is no cell `RXBUF[8]`. Raised by RXB.
  Excluded by R23 item 2. Safe. -/
  | rxOverrun
  /-- A cell whose value the operation needs holds `⊥`. Raised by RXB (its eighth byte), RDRX
  and RDFR. Excluded by R23 items 4 and 6. Safe. -/
  | emptyCell
deriving DecidableEq, Repr

/-- Why a step is refused. -/
inductive Refusal where
  /-- An instruction without a meaning; no arm of this model answers it. Safe. -/
  | notModelled (mnemonic : String)
deriving DecidableEq, Repr

/-- The reset values of R32. -/
def Block.reset : Block :=
  { asm := .idle, res := .none, rxcnt := 0, rxbuf := Vector.replicate 8 .none, txbuf := .none }

/-- The machine right after reset: the block as R32 says, the parameters at R9's defaults, and
no request presented or answered yet. -/
def State.reset : State :=
  { block := Block.reset, cfg := Config.default, inputs := [], responses := [] }

end Sys2Proof.Machine
end

