-- ==== Sys2Proof/Machine/Flags.lean ====
section
/-! DEFINITION. The status register `STAT` and the other views of the block's state (10_state.md
R26; 42_assembler.md R170, R172, R182; 60_exceptions.md R200, R210). None of them is a state
element of its own. -/

namespace Sys2Proof.Machine

/-- The code of `ASM` (R20). -/
def Asm.code : Asm → BitVec 2
  | .idle => 0
  | .assembling => 1
  | .done => 2

/-- The code of `RES` (R20). -/
def Res.code : Res → BitVec 2
  | .none => 0
  | .ok => 1
  | .crcError => 2
  | .lengthError => 3

/-- The code of `ST` (R200). -/
def Status.code : Status → BitVec 3
  | .ok => 0
  | .crcError => 1
  | .lengthError => 2
  | .illegal => 3
  | .notReady => 4
  | .badIndex => 5

/-- `STAT = (RXCNT << 4) | (RES << 2) | ASM` (R26, R172). -/
def Block.stat (b : Block) : Byte :=
  (BitVec.ofNat 8 b.rxcnt.val <<< 4) ||| (b.res.code.setWidth 8 <<< 2) ||| b.asm.code.setWidth 8

/-- `STAT.ASM = STAT[1:0]` (R26). -/
def statAsm (v : Byte) : BitVec 2 := v.extractLsb' 0 2

/-- `STAT.RES = STAT[3:2]` (R26). -/
def statRes (v : Byte) : BitVec 2 := v.extractLsb' 2 2

/-- `STAT.CNT = STAT[7:4]` (R26). -/
def statCnt (v : Byte) : BitVec 4 := v.extractLsb' 4 4

/-- The level output `done = (ASM = DONE)` an instance may drive (R210). -/
def Block.doneOut (b : Block) : Bool := b.asm == .done

/-- The attempt ended in step 5's success (R182). -/
def Block.attemptSucceeded (b : Block) : Bool := b.asm == .done && b.res == .ok

/-- The attempt ended as "one failed attempt" (R182). -/
def Block.attemptFailed (b : Block) : Bool :=
  b.asm == .done && (b.res == .crcError || b.res == .lengthError)

/-- The outcome a host may call `ReplyTimeout`: `RES = LENGTH_ERROR` with no byte stored
(R170). -/
def Block.replyTimedOut (b : Block) : Bool := b.res == .lengthError && b.rxcnt == 0

end Sys2Proof.Machine
end

