-- ==== Sys2Proof/Machine/Operands.lean ====
section
/-! DEFINITION. Multi-byte assembly (00_scope.md R14, R15; 20_memory.md R41, R42), the decoding
function `dec` (40_decoders.md R100) and the reading of an F32 pattern (R110). -/

namespace Sys2Proof.Machine

/-- `s[i]`. Every use below is guarded by a length check, so the 0 past the end is never read. -/
def byteAt (s : List Byte) (i : Nat) : Byte := s.getD i 0

/-- `be16(s, o) = (s[o] << 8) | s[o+1]` (R14). -/
def be16 (s : List Byte) (o : Nat) : U16 :=
  ((byteAt s o).setWidth 16 <<< 8) ||| (byteAt s (o + 1)).setWidth 16

/-- `be32(s, o)`: the byte at the lowest index is the most significant (R14, R41). -/
def be32 (s : List Byte) (o : Nat) : U32 :=
  ((byteAt s o).setWidth 32 <<< 24) ||| ((byteAt s (o + 1)).setWidth 32 <<< 16) |||
    ((byteAt s (o + 2)).setWidth 32 <<< 8) ||| (byteAt s (o + 3)).setWidth 32

/-- `le16(s, o) = s[o] | (s[o+1] << 8)` (R14, R42). -/
def le16 (s : List Byte) (o : Nat) : U16 :=
  (byteAt s o).setWidth 16 ||| ((byteAt s (o + 1)).setWidth 16 <<< 8)

/-- `lo(v) = v[7:0]` (R14). -/
def lo (v : U16) : Byte := v.extractLsb' 0 8

/-- `hi(v) = v[15:8]` (R14). -/
def hi (v : U16) : Byte := v.extractLsb' 8 8

/-- `int16(v)`: the two's-complement reading of a 16-bit pattern (R15, D11). -/
def int16 (v : U16) : Int :=
  if v.toNat < 0x8000 then v.toNat else (v.toNat : Int) - 0x10000

/-- The decoder kinds (R68, R100). -/
inductive DecKind where
  | u16
  | i16
  | u32
  | f32
deriving DecidableEq, Repr

/-- `width(kind)`, in bytes (R100). -/
def decWidth : DecKind → Nat
  | .u16 => 2
  | .i16 => 2
  | .u32 => 4
  | .f32 => 4

/-- `sentinel(kind)` (R100): 0 for the integers, the parameter `F32_SENTINEL` for F32. -/
def decSentinel (cfg : Config) : DecKind → U32
  | .u16 => 0
  | .i16 => 0
  | .u32 => 0
  | .f32 => cfg.f32Sentinel

/-- The value of a kind where enough bytes remain (R100). -/
def decValue (s : List Byte) (o : Nat) : DecKind → U32
  | .u16 => (be16 s o).setWidth 32
  | .i16 => (be16 s o).signExtend 32
  | .u32 => be32 s o
  | .f32 => be32 s o

/-- `dec(kind, s, o)`: the pair `(VAL, SHORT)` (R100, R101). -/
def dec (cfg : Config) (kind : DecKind) (s : List Byte) (o : Nat) : U32 × Bool :=
  if o + decWidth kind > s.length then (decSentinel cfg kind, true)
  else (decValue s o kind, false)

/-- The sign bit `VAL[31]` of an F32 pattern (R110). -/
def f32Sign (v : U32) : BitVec 1 := v.extractLsb' 31 1

/-- The biased exponent `VAL[30:23]` (R110). -/
def f32Exponent (v : U32) : BitVec 8 := v.extractLsb' 23 8

/-- The fraction `VAL[22:0]` (R110). -/
def f32Fraction (v : U32) : BitVec 23 := v.extractLsb' 0 23

/-- A NaN: `VAL[30:23] = 0xFF ∧ VAL[22:0] ≠ 0` (R114). -/
def f32IsNaN (v : U32) : Bool := f32Exponent v == 0xFF && f32Fraction v != 0

end Sys2Proof.Machine
end

