-- ==== Sys2Proof/Machine/Ops.lean ====
section
/-! DEFINITION. The named operations every meaning is built from: answering a request, the CRC and
the validator (41_codec.md R120, R125), the assembler's writes (42_assembler.md R155 to R168),
taking the host's next input, and reset. The block has no trap entry (60_exceptions.md R212): its
errors are responses, and `State.raise` is the one operation that makes one. -/

namespace Sys2Proof.Machine

/-! ### Answering a request (00_scope.md R17) -/

/-- `respond(...)`: one response record is returned to the host. -/
def State.respond (s : State) (r : Response) : State :=
  { s with responses := s.responses ++ [r] }

/-- `raise E`: an error status with no data field, and no state written (R17, R200). -/
def State.raise (s : State) (e : Status) : State := s.respond { st := e }

/-- The state elements of the block written together, at the end of an operation (R16, R44). -/
def State.withBlock (s : State) (b : Block) : State := { s with block := b }

/-! ### CRC16 (R8, R120) -/

/-- `CRC_POLY`, in reflected form (R8). -/
def crcPoly : U16 := 0x8408

/-- `CRC_INIT` (R8). -/
def crcInit : U16 := 0xFFFF

/-- The inner loop of R120, `k` rounds of it: one bit of `b` a round, least significant first. -/
def crcBits : Nat → U16 → Byte → U16
  | 0, r, _ => r
  | k + 1, r, b =>
    crcBits k (if (r ^^^ b.setWidth 16) &&& 1 = 1 then (r >>> 1) ^^^ crcPoly else r >>> 1)
      (b >>> 1)

/-- The register after the eight rounds of one byte (R120). -/
def crcByte (r : U16) (b : Byte) : U16 := crcBits 8 r b

/-- `crc16(s)`: the bytes in wire order, then the complement (R120). -/
def crc16 (s : List Byte) : U16 := ~~~(s.foldl crcByte crcInit)

/-! ### The validator (R125) -/

/-- The results of `verify` (R125). -/
inductive Verdict where
  | lengthError
  | crcError (crc rcv : U16)
  | ok (crc rcv : U16) (frame : List Byte)
deriving DecidableEq, Repr

/-- `verify(s)`: length first, then the CRC over the first 6 bytes against `le16(s, 6)` (R125). -/
def verify (s : List Byte) : Verdict :=
  if s.length ≠ 8 then .lengthError
  else
    let c := crc16 (s.take 6)
    let r := le16 s 6
    if c ≠ r then .crcError c r else .ok c r s

/-- The response fields `verify` returns (R125, R135). -/
def Verdict.response : Verdict → Response
  | .lengthError => { st := .lengthError }
  | .crcError c r => { st := .crcError, crc := some c, rcv := some r }
  | .ok c r f => { st := .ok, crc := some c, rcv := some r, frame := some f }

/-- The outcome recorded in `RES` for a verdict (R22, R162). -/
def Verdict.res : Verdict → Res
  | .lengthError => .lengthError
  | .crcError _ _ => .crcError
  | .ok _ _ _ => .ok

/-! ### The outbound frame (R60, R130) -/

/-- `F ++ [lo(k), hi(k)]` with `F = [addr, cmd] ++ payload` and `k = crc16(F)` (R130). -/
def outboundFrame (addr cmd : Byte) (payload : Vector Byte 6) : Vector Byte 10 :=
  let f := addr :: cmd :: payload.toList
  ⟨(f ++ [lo (crc16 f), hi (crc16 f)]).toArray, by simp [f]⟩

/-- `TXBUF <- F10` (R130). -/
def Block.setTx (b : Block) (f : Vector Byte 10) : Block := { b with txbuf := some f }

/-! ### The receive buffer -/

/-- The values of a run of cells, when every one of them holds a value. -/
def cellValues : List (Option Byte) → Option (List Byte)
  | [] => some []
  | .none :: _ => .none
  | some v :: cs => (cellValues cs).map (v :: ·)

/-- `RXBUF[0..8)` as bytes, when every cell holds a value. -/
def rxFrame (buf : Vector (Option Byte) 8) : Option (List Byte) := cellValues buf.toList

/-! ### The assembler's writes (R150) -/

/-- CLR's writes (R155). -/
def Block.arm (b : Block) : Block :=
  { b with rxbuf := Vector.replicate 8 .none, rxcnt := 0, res := .none, asm := .assembling }

/-- The end of an attempt with an outcome: `ASM <- DONE`, `RES <- r` (R160, R166). -/
def Block.finish (b : Block) (r : Res) : Block := { b with asm := .done, res := r }

/-- CAN's writes (R168): `RXCNT` and `RXBUF` are kept. -/
def Block.cancel (b : Block) : Block := { b with asm := .idle, res := .none }

/-- `RXBUF[RXCNT] <- v` and `RXCNT <- RXCNT + 1` (R160). -/
def Block.store (b : Block) (v : Byte) (h : b.rxcnt.val < 8) : Block :=
  { b with rxbuf := b.rxbuf.set b.rxcnt.val (some v) h, rxcnt := ⟨b.rxcnt.val + 1, by omega⟩ }

/-- 8-byte recognition (R162): when the count has come to 8, the attempt ends with the
validator's verdict on `RXBUF[0..8)`. -/
def Block.recognise (b : Block) : Except Fault Block :=
  if b.rxcnt.val = 8 then
    match rxFrame b.rxbuf with
    | some f => .ok (b.finish (verify f).res)
    | .none => .error .emptyCell
  else .ok b

/-- An accepted byte (R160): it is stored, and the eighth one is recognised. -/
def Block.accept (b : Block) (v : Byte) : Except Fault Block :=
  if h : b.rxcnt.val < 8 then (b.store v h).recognise else .error .rxOverrun

/-! ### The host's next input, and reset -/

/-- The next input in issue order, and the state without it; `none` while the host presents
nothing (R49). -/
def State.nextInput (s : State) : Option (Input × State) :=
  match s.inputs with
  | [] => .none
  | i :: rest => some (i, { s with inputs := rest })

/-- The reset event (R230): every state element takes its value of R32; there is no response. -/
def State.resetEvent (s : State) : State := s.withBlock Block.reset

/-- An illegal request (R69, R202): it writes no state and answers `ILLEGAL` with no data. -/
def State.refuseIllegal (s : State) : State := s.raise .illegal

end Sys2Proof.Machine
end

