-- ==== Sys2Proof/Machine/Assembler.lean ====
section
/-! DEFINITION. The meanings of the operations that change the assembler: CLR, RXB, ABT and CAN
(42_assembler.md). -/

namespace Sys2Proof.Machine

/-- CLR (R155): discard and arm; `STATV = STAT'`. -/
def execClr (s : State) : Host.Outcome State Fault Refusal :=
  let b := s.block.arm
  .next ((s.withBlock b).respond { st := .ok, statv := some b.stat })

/-- RXB (R160): stored while assembling (`ACC = 1`), dropped otherwise (`ACC = 0`). -/
def execRxb (v : Byte) (s : State) : Host.Outcome State Fault Refusal :=
  match s.block.asm with
  | .assembling =>
    match s.block.accept v with
    | .ok b =>
      .next ((s.withBlock b).respond { st := .ok, acc := some true, statv := some b.stat })
    | .error e => .fault e
  | .idle => .next (s.respond { st := .ok, acc := some false, statv := some s.block.stat })
  | .done => .next (s.respond { st := .ok, acc := some false, statv := some s.block.stat })

/-- ABT (R166): the attempt ends as `LENGTH_ERROR` while assembling; no effect otherwise. -/
def execAbt (s : State) : Host.Outcome State Fault Refusal :=
  match s.block.asm with
  | .assembling =>
    let b := s.block.finish .lengthError
    .next ((s.withBlock b).respond { st := .ok, acc := some true, statv := some b.stat })
  | .idle => .next (s.respond { st := .ok, acc := some false, statv := some s.block.stat })
  | .done => .next (s.respond { st := .ok, acc := some false, statv := some s.block.stat })

/-- CAN (R168): back to IDLE with no outcome; the stored bytes are kept. -/
def execCan (s : State) : Host.Outcome State Fault Refusal :=
  let b := s.block.cancel
  .next ((s.withBlock b).respond { st := .ok, statv := some b.stat })

end Sys2Proof.Machine
end

