-- ==== Sys2Proof/Machine/Codec.lean ====
section
/-! DEFINITION. The meanings of the frame codec's operations CRC, ENC and VFY (41_codec.md). -/

namespace Sys2Proof.Machine

/-- CRC (R122): `respond(OK, CRC = crc16(S))`; no state written. -/
def execCrc (xs : List Byte) (s : State) : Host.Outcome State Fault Refusal :=
  .next (s.respond { st := .ok, crc := some (crc16 xs) })

/-- ENC (R130): `TXBUF <- F10` and `respond(OK, FRAME = F10)`. Every address byte is encoded
(R131). -/
def execEnc (addr cmd : Byte) (payload : Vector Byte 6) (s : State) :
    Host.Outcome State Fault Refusal :=
  let f := outboundFrame addr cmd payload
  .next ((s.withBlock (s.block.setTx f)).respond { st := .ok, frame := some f.toList })

/-- VFY (R135): `respond(verify(S))`; no state written. -/
def execVfy (xs : List Byte) (s : State) : Host.Outcome State Fault Refusal :=
  .next (s.respond (verify xs).response)

end Sys2Proof.Machine
end

