-- ==== Sys2Proof/Machine/Decoders.lean ====
section
/-! DEFINITION. The meanings of the four DEC operations (40_decoders.md R104, R106, R108, R112):
each answers `dec` of its own kind and writes no state. -/

namespace Sys2Proof.Machine

/-- `(v, sh) = dec(kind, S, IMM)` then `respond(OK, VAL = v, SHORT = sh)`. -/
def answerDec (kind : DecKind) (o : Byte) (xs : List Byte) (s : State) :
    Host.Outcome State Fault Refusal :=
  let d := dec s.cfg kind xs o.toNat
  .next (s.respond { st := .ok, val := some d.1, short := some d.2 })

/-- DEC.U16 (R104). -/
def execDecU16 (o : Byte) (xs : List Byte) (s : State) : Host.Outcome State Fault Refusal :=
  answerDec .u16 o xs s

/-- DEC.I16 (R106). -/
def execDecI16 (o : Byte) (xs : List Byte) (s : State) : Host.Outcome State Fault Refusal :=
  answerDec .i16 o xs s

/-- DEC.U32 (R108). -/
def execDecU32 (o : Byte) (xs : List Byte) (s : State) : Host.Outcome State Fault Refusal :=
  answerDec .u32 o xs s

/-- DEC.F32 (R112): the pattern, bit for bit; no NaN is rewritten (R114). -/
def execDecF32 (o : Byte) (xs : List Byte) (s : State) : Host.Outcome State Fault Refusal :=
  answerDec .f32 o xs s

end Sys2Proof.Machine
end

