-- ==== Sys2Proof/Machine/Reads.lean ====
section
/-! DEFINITION. The meanings of the state reads RDST, RDRX, RDFR and RDTX (42_assembler.md), which
write no state. -/

namespace Sys2Proof.Machine

/-- RDST (R172): `respond(OK, STATV = STAT)`. -/
def execRdst (s : State) : Host.Outcome State Fault Refusal :=
  .next (s.respond { st := .ok, statv := some s.block.stat })

/-- RDRX (R175): the cell's byte where `i < RXCNT`, else `BAD_INDEX`. -/
def execRdrx (i : Byte) (s : State) : Host.Outcome State Fault Refusal :=
  if h : i.toNat < s.block.rxcnt.val then
    match s.block.rxbuf[i.toNat]'(by omega) with
    | some v => .next (s.respond { st := .ok, byte := some v })
    | .none => .fault .emptyCell
  else .next (s.raise .badIndex)

/-- RDFR (R178): the eight bytes, only in DONE with `RES = OK`; else `NOT_READY`. -/
def execRdfr (s : State) : Host.Outcome State Fault Refusal :=
  if s.block.asm = .done ∧ s.block.res = .ok then
    match rxFrame s.block.rxbuf with
    | some f => .next (s.respond { st := .ok, frame := some f })
    | .none => .fault .emptyCell
  else .next (s.raise .notReady)

/-- RDTX (R180): `NOT_READY` before the first ENC, then `BAD_INDEX` from 10 up, else the byte. -/
def execRdtx (i : Byte) (s : State) : Host.Outcome State Fault Refusal :=
  match s.block.txbuf with
  | .none => .next (s.raise .notReady)
  | some f =>
    if h : i.toNat < 10 then .next (s.respond { st := .ok, byte := some f[i.toNat] })
    else .next (s.raise .badIndex)

end Sys2Proof.Machine
end

