-- ==== Sys2Proof/Machine/Dispatch.lean ====
section
/-! DEFINITION. One arm per constructor of `Instr`, each a direct call of its meaning. -/

namespace Sys2Proof.Machine

/-- The effect of a legal request on the state from which it has been taken. -/
def exec (i : Instr) (s : State) : Host.Outcome State Fault Refusal :=
  match i with
  | .crc xs => Sys2Proof.Machine.execCrc xs s
  | .enc addr cmd payload => Sys2Proof.Machine.execEnc addr cmd payload s
  | .vfy xs => Sys2Proof.Machine.execVfy xs s
  | .clr => Sys2Proof.Machine.execClr s
  | .rxb v => Sys2Proof.Machine.execRxb v s
  | .abt => Sys2Proof.Machine.execAbt s
  | .can => Sys2Proof.Machine.execCan s
  | .decU16 o xs => Sys2Proof.Machine.execDecU16 o xs s
  | .decI16 o xs => Sys2Proof.Machine.execDecI16 o xs s
  | .decU32 o xs => Sys2Proof.Machine.execDecU32 o xs s
  | .decF32 o xs => Sys2Proof.Machine.execDecF32 o xs s
  | .rdst => Sys2Proof.Machine.execRdst s
  | .rdrx k => Sys2Proof.Machine.execRdrx k s
  | .rdfr => Sys2Proof.Machine.execRdfr s
  | .rdtx k => Sys2Proof.Machine.execRdtx k s

end Sys2Proof.Machine
end

