-- ==== Sys2Proof/Machine/Step.lean ====
section
/-! DEFINITION. One step: the host's next input takes effect, whole (20_memory.md R44, R49). -/

namespace Sys2Proof.Machine

/-- With nothing presented, the block holds its state (60_exceptions.md R220). A reset event puts
it in its reset state (R230). A legal request runs; an illegal one is answered `ILLEGAL` (R69). -/
def step (s : State) : Host.Outcome State Fault Refusal :=
  match s.nextInput with
  | .none => .next s
  | some (.reset, t) => .next t.resetEvent
  | some (.request r, t) =>
    match decode t.cfg.seqMax r with
    | .ok i => exec i t
    | .error _ => .next t.refuseIllegal

/-- The state with an opcode-table row's request presented next, ahead of whatever the host
presents after it (log entry 5). -/
def State.withFetchWord (s : State) (nbits w : Nat) : State :=
  { s with inputs := .request (tableRequest nbits w) :: s.inputs }

end Sys2Proof.Machine
end

