-- ==== Sys2Proof/Safety.lean ====
section
/-! DEFINITION. The terms claims use: the invariants of 10_state.md R23, what a recorded verdict
and an encoded frame mean (R22, R24), which operations write no state (20_memory.md R46), and
reference forms of R69 and R120 that share no code with the model. -/

namespace Sys2Proof.Machine

/-! ### Invariants -/

/-- The six state invariants of R23, in its order. -/
abbrev Block.Inv (b : Block) : Prop :=
  (b.asm = .idle → b.res = .none) ∧
  (b.asm = .assembling → b.res = .none ∧ b.rxcnt.val < 8) ∧
  (b.asm = .done → b.res ≠ .none) ∧
  (b.res = .ok ∨ b.res = .crcError → b.rxcnt.val = 8) ∧
  (b.res = .lengthError → b.rxcnt.val < 8) ∧
  (∀ i : Fin 8, b.rxbuf[i] ≠ .none ↔ i.val < b.rxcnt.val)

/-- A valid inbound frame (30_encoding.md R62): 8 bytes whose trailing 2, read little-endian, are
the CRC16 of the first 6. -/
def frameValid (f : List Byte) : Bool := f.length == 8 && crc16 (f.take 6) == le16 f 6

/-- What a recorded verdict says of the stored bytes (R22): under `OK` they are a valid frame,
under `CRC_ERROR` they are 8 bytes that are not. -/
abbrev Block.VerdictHolds (b : Block) : Prop :=
  (b.res = .ok → (rxFrame b.rxbuf).any frameValid = true) ∧
  (b.res = .crcError → (rxFrame b.rxbuf).any (fun f => !frameValid f) = true)

/-- A valid outbound frame (R60): its last 2 bytes, read little-endian, are the CRC16 of its
first 8. -/
abbrev outboundValid (f : Vector Byte 10) : Prop :=
  crc16 (f.toList.take 8) = le16 f.toList 8

/-- `TXBUF` holds no frame, or a valid one (R24, R130). -/
abbrev Block.TxHolds (b : Block) : Prop := ∀ f ∈ b.txbuf, outboundValid f

/-! ### Reading an outcome -/

/-- The next state of an outcome, where there is one. -/
def nextOf : Host.Outcome State Fault Refusal → Option State
  | .next t => some t
  | .fault _ => .none
  | .refused _ => .none

/-! ### Classes of operations -/

/-- RDST, RDRX, RDFR, RDTX, CRC, VFY and DEC: the operations that change no state (R46). -/
def readsOnly : Instr → Bool
  | .crc _ => true
  | .enc _ _ _ => false
  | .vfy _ => true
  | .clr => false
  | .rxb _ => false
  | .abt => false
  | .can => false
  | .decU16 _ _ => true
  | .decI16 _ _ => true
  | .decU32 _ _ => true
  | .decF32 _ _ => true
  | .rdst => true
  | .rdrx _ => true
  | .rdfr => true
  | .rdtx _ => true

/-- CRC, ENC, VFY and DEC: the operations that read no state of the block (R102, R122, R130,
R135). -/
def statesNothing : Instr → Bool
  | .crc _ => true
  | .enc _ _ _ => true
  | .vfy _ => true
  | .clr => false
  | .rxb _ => false
  | .abt => false
  | .can => false
  | .decU16 _ _ => true
  | .decI16 _ _ => true
  | .decU32 _ _ => true
  | .decF32 _ _ => true
  | .rdst => false
  | .rdrx _ => false
  | .rdfr => false
  | .rdtx _ => false

/-! ### Reference forms -/

/-- The six conditions of R69 in numbers: `OP = W / 4096`, `FN = W / 256 mod 16`,
`IMM = W mod 256`. -/
abbrev IllegalByNumbers (seqMax : Option Nat) (w : U16) (xs : List Byte) : Prop :=
  (w.toNat / 4096 ∈ [0, 13, 14, 15]) ∨
  (w.toNat / 4096 = 8 ∧ w.toNat / 256 % 16 > 3) ∨
  (w.toNat / 4096 ≠ 8 ∧ w.toNat / 256 % 16 ≠ 0) ∨
  (w.toNat / 4096 ∉ [5, 8, 10, 12] ∧ w.toNat % 256 ≠ 0) ∨
  (w.toNat / 4096 = 2 ∧ xs.length ≠ 8) ∨
  (w.toNat / 4096 ∈ [4, 5, 6, 7, 9, 10, 11, 12] ∧ xs.length ≠ 0) ∨
  (w.toNat / 4096 ∈ [1, 3, 8] ∧ ∃ k ∈ seqMax, xs.length > k)

/-- The bits of a byte, least significant first. -/
def bitsOf (b : Byte) : List Bool := (List.range 8).map b.getLsbD

/-- One shift of the reflected register: the bit that leaves it, against the data bit (R120). -/
def shiftBit (r : U16) (bit : Bool) : U16 :=
  if (r.getLsbD 0 != bit) = true then (r >>> 1) ^^^ 0x8408 else r >>> 1

/-- The CRC of R120 as one shift register over the whole bit stream. -/
def bitSerialCrc (xs : List Byte) : U16 := ~~~((xs.flatMap bitsOf).foldl shiftBit 0xFFFF)

/-- The per-byte form R120 calls equivalent: `r = r ^ b`, then 8 shifts. -/
def perByteCrc (xs : List Byte) : U16 :=
  ~~~(xs.foldl (fun r b => (List.replicate 8 false).foldl shiftBit (r ^^^ b.setWidth 16)) 0xFFFF)

/-- The byte sequence with bit `i mod 8` of byte `i / 8` flipped. -/
def flipBit (xs : List Byte) (i : Nat) : List Byte :=
  xs.modify (i / 8) fun b => b ^^^ (1#8 <<< (i % 8))

/-- The bytewise exclusive-or of two sequences. -/
def xorBytes (xs es : List Byte) : List Byte := List.zipWith (· ^^^ ·) xs es

end Sys2Proof.Machine
end

