-- ==== Sys2Proof/Certificates/Slice0/Obligations.lean ====
section
/-! DEFINITION. The statements for the provers, from the numbered rules of spec/. -/

open Sys2Proof Sys2Proof.Machine

/-! ### Encodings -/

/-- Every legal instruction's request decodes back to it, at every operand (R64 to R69, R72). -/
def Obligations.DecodeOfEncodeIsInstruction : Prop :=
  ∀ (m : Option Nat) (i : Instr), i.wf m = true → decode m (encode i) = .ok i

/-- A request that decodes is the encoding of what it decodes to, and that is well formed: no
two requests spell one instruction (R69: "legal with one meaning or illegal"). -/
def Obligations.DecodableRequestIsItsEncoding : Prop :=
  ∀ (m : Option Nat) (r : Request) (i : Instr),
    decode m r = .ok i → encode i = r ∧ i.wf m = true

/-- R69 and R202: an illegal request, told by the six conditions in numbers, writes no state and
answers `ILLEGAL` with no data field; every other request is legal. -/
def Obligations.IllegalRequestsWriteNothing : Prop :=
  ∀ (s : State) (w : U16) (xs : List Byte) (rest : List Input),
    s.inputs = .request { word := w, seq := xs } :: rest →
    (IllegalByNumbers s.cfg.seqMax w xs →
      step s = .next { s with
        inputs := rest, responses := s.responses ++ [{ st := .illegal }] }) ∧
    (¬ IllegalByNumbers s.cfg.seqMax w xs →
      ∃ i, decode s.cfg.seqMax { word := w, seq := xs } = .ok i)

/-- Words written out from R67 and R72 read as the instructions they stand for. -/
def Obligations.WrittenWordsDecode : Prop :=
  decode none { word := 0x2000, seq := [0x02, 0x3B, 1, 1, 0, 0, 0, 0] }
    = .ok (.enc 0x02 0x3B #v[1, 1, 0, 0, 0, 0]) ∧
  decode none { word := 0x5066, seq := [] } = .ok (.rxb 0x66) ∧
  decode none { word := 0x8302, seq := [0, 0, 0x43, 0x66, 0, 0] }
    = .ok (.decF32 2 [0, 0, 0x43, 0x66, 0, 0]) ∧
  decode none { word := 0xC00A, seq := [] } = .ok (.rdtx 10)

/-- R73: the pseudo-operations, as the requests each expands into. -/
def Obligations.PseudoOperationsExpand : Prop :=
  (∀ bs : List Byte, (expandRxn bs).map encode
    = bs.map fun b => { word := 0x5000#16 ||| b.setWidth 16, seq := [] }) ∧
  (∀ (a mt : Byte) (g : Bool), (expandEncm a mt g).map encode
    = [{ word := 0x2000, seq := [a, 0x3B, mt, BitVec.ofNat 8 g.toNat, 0, 0, 0, 0] }]) ∧
  (∀ a c : Byte, (expandEncz a c).map encode
    = [{ word := 0x2000, seq := [a, c, 0, 0, 0, 0, 0, 0] }]) ∧
  (∀ a c sel : Byte, (expandEncs a c sel).map encode
    = [{ word := 0x2000, seq := [a, c, sel, 0, 0, 0, 0, 0] }])

/-! ### The step -/

/-- A legal request at the head of the host's inputs is taken off and run. -/
def Obligations.StepRunsDecodedRequest : Prop :=
  ∀ (s : State) (r : Request) (rest : List Input) (i : Instr),
    s.inputs = .request r :: rest → decode s.cfg.seqMax r = .ok i →
    step s = exec i { s with inputs := rest }

/-- With nothing presented the whole state is held (R220). The host's input list is the model's
own (log entry 1). -/
def Obligations.IdleStepHoldsState : Prop :=
  ∀ s : State, s.inputs = [] → step s = .next s

/-- R230 and R32: the reset event puts every state element at its reset value, and gives no
response; the parameters are kept. -/
def Obligations.ResetEventRestoresBlock : Prop :=
  ∀ (s : State) (rest : List Input), s.inputs = .reset :: rest →
    ∃ t, step s = .next t ∧ t.block.asm = .idle ∧ t.block.res = .none ∧ t.block.rxcnt = 0 ∧
      (∀ k : Fin 8, t.block.rxbuf[k] = .none) ∧ t.block.txbuf = .none ∧ t.block.stat = 0x00 ∧
      t.responses = s.responses ∧ t.inputs = rest ∧ t.cfg = s.cfg

/-- In every state that meets R23, a step goes on, takes one input, gives one response to a
request and none to a reset event, and keeps the parameters (R17, R44, R230). -/
def Obligations.EveryStepAnswersOnce : Prop :=
  ∀ s : State, s.block.Inv →
    ∃ t, step s = .next t ∧ t.inputs = s.inputs.tail ∧ t.cfg = s.cfg ∧
      (∀ r rest, s.inputs = .request r :: rest →
        ∃ a, t.responses = s.responses ++ [a]) ∧
      ((s.inputs = [] ∨ ∃ rest, s.inputs = .reset :: rest) → t.responses = s.responses)

/-! ### Invariants -/

/-- Every step keeps the six invariants of R23. -/
def Obligations.StepKeepsStateInvariants : Prop :=
  ∀ s t : State, s.block.Inv → step s = .next t → t.block.Inv

/-- Every step keeps the truth of the recorded verdict (R22): `RES = OK` only over a valid
frame, `RES = CRC_ERROR` only over 8 bytes that are none. -/
def Obligations.StepKeepsVerdictTrue : Prop :=
  ∀ s t : State, s.block.Inv → s.block.VerdictHolds → step s = .next t → t.block.VerdictHolds

/-- Every step keeps `TXBUF` empty or a valid outbound frame (R24, R60, R130). -/
def Obligations.StepKeepsTxFrameValid : Prop :=
  ∀ s t : State, s.block.TxHolds → step s = .next t → t.block.TxHolds

/-- The three invariants hold at reset. -/
def Obligations.ResetMeetsInvariants : Prop :=
  State.reset.block.Inv ∧ State.reset.block.VerdictHolds ∧ State.reset.block.TxHolds

/-! ### The decoders -/

/-- R104: DEC.U16. -/
def Obligations.DecU16ReadsBigEndian : Prop :=
  ∀ (o : Byte) (xs : List Byte) (s : State),
    encode (.decU16 o xs) = { word := 0x8000#16 ||| o.setWidth 16, seq := xs } ∧
    ∃ v sh, exec (.decU16 o xs) s = .next { s with responses := s.responses ++
        [{ st := .ok, val := some v, short := some sh }] } ∧
      (o.toNat + 2 > xs.length → v = 0 ∧ sh = true) ∧
      (∀ a b, xs[o.toNat]? = some a → xs[o.toNat + 1]? = some b →
        v.toNat = 256 * a.toNat + b.toNat ∧ sh = false)

/-- R106: DEC.I16, two's complement. -/
def Obligations.DecI16ReadsSigned : Prop :=
  ∀ (o : Byte) (xs : List Byte) (s : State),
    encode (.decI16 o xs) = { word := 0x8100#16 ||| o.setWidth 16, seq := xs } ∧
    ∃ v sh, exec (.decI16 o xs) s = .next { s with responses := s.responses ++
        [{ st := .ok, val := some v, short := some sh }] } ∧
      (o.toNat + 2 > xs.length → v = 0 ∧ sh = true) ∧
      (∀ a b, xs[o.toNat]? = some a → xs[o.toNat + 1]? = some b →
        v.toInt = int16 (v.setWidth 16) ∧
        v.toInt = (if 256 * a.toNat + b.toNat < 32768 then ((256 * a.toNat + b.toNat : Nat) : Int)
          else ((256 * a.toNat + b.toNat : Nat) : Int) - 65536) ∧ sh = false)

/-- R108: DEC.U32. -/
def Obligations.DecU32ReadsBigEndian : Prop :=
  ∀ (o : Byte) (xs : List Byte) (s : State),
    encode (.decU32 o xs) = { word := 0x8200#16 ||| o.setWidth 16, seq := xs } ∧
    ∃ v sh, exec (.decU32 o xs) s = .next { s with responses := s.responses ++
        [{ st := .ok, val := some v, short := some sh }] } ∧
      (o.toNat + 4 > xs.length → v = 0 ∧ sh = true) ∧
      (∀ a b c d, xs[o.toNat]? = some a → xs[o.toNat + 1]? = some b →
        xs[o.toNat + 2]? = some c → xs[o.toNat + 3]? = some d →
        v.toNat = 16777216 * a.toNat + 65536 * b.toNat + 256 * c.toNat + d.toNat ∧ sh = false)

/-- R112: DEC.F32 returns the four bytes' pattern unchanged, and the instance's `F32_SENTINEL`
on short input, whatever that parameter is. -/
def Obligations.DecF32ReadsPattern : Prop :=
  ∀ (o : Byte) (xs : List Byte) (s : State),
    encode (.decF32 o xs) = { word := 0x8300#16 ||| o.setWidth 16, seq := xs } ∧
    ∃ v sh, exec (.decF32 o xs) s = .next { s with responses := s.responses ++
        [{ st := .ok, val := some v, short := some sh }] } ∧
      (o.toNat + 4 > xs.length → v = s.cfg.f32Sentinel ∧ sh = true) ∧
      (∀ a b c d, xs[o.toNat]? = some a → xs[o.toNat + 1]? = some b →
        xs[o.toNat + 2]? = some c → xs[o.toNat + 3]? = some d →
        v.toNat = 16777216 * a.toNat + 65536 * b.toNat + 256 * c.toNat + d.toNat ∧ sh = false)

/-- R100: `dec` reads exactly `s[o..o+w)`: two sequences of enough bytes that agree there decode
alike, for every kind. -/
def Obligations.DecReadsOnlyItsSlice : Prop :=
  ∀ (cfg : Config) (k : DecKind) (xs ys : List Byte) (o : Nat),
    o + decWidth k ≤ xs.length → o + decWidth k ≤ ys.length →
    (xs.drop o).take (decWidth k) = (ys.drop o).take (decWidth k) →
    dec cfg k xs o = dec cfg k ys o ∧ (dec cfg k xs o).2 = false

/-- R43: wide and narrow reads of one sequence agree. -/
def Obligations.WideReadIsTwoNarrowReads : Prop :=
  ∀ (xs : List Byte) (o : Nat), o + 4 ≤ xs.length →
    be32 xs o = ((be16 xs o).setWidth 32 <<< 16) ||| (be16 xs (o + 2)).setWidth 32

/-! ### The CRC, the encoder and the validator -/

/-- R122: CRC answers the checksum of R120, here as one shift register over the bit stream. -/
def Obligations.CrcAnswersBitSerialCrc : Prop :=
  ∀ (xs : List Byte) (s : State),
    encode (.crc xs) = { word := 0x1000, seq := xs } ∧
    exec (.crc xs) s = .next { s with responses := s.responses ++
      [{ st := .ok, crc := some (bitSerialCrc xs) }] }

/-- R120's remark: the loop and the per-byte form give one result. -/
def Obligations.CrcPerByteFormAgrees : Prop :=
  ∀ xs : List Byte, crc16 xs = perByteCrc xs

/-- R123: `crc16` is affine over exclusive-or. -/
def Obligations.CrcIsAffine : Prop :=
  ∀ xs es : List Byte, xs.length = es.length →
    crc16 (xorBytes xs es) = crc16 xs ^^^ crc16 es ^^^ crc16 (List.replicate xs.length 0)

/-- R123: over a whole frame, CRC bytes included, `crc16` is the constant 0x0F47. -/
def Obligations.CrcOfWholeFrameIsConstant : Prop :=
  (∀ f : List Byte, f.length = 8 → crc16 (f.take 6) = le16 f 6 → crc16 f = 0x0F47) ∧
  (∀ (a c : Byte) (p : Vector Byte 6), crc16 (outboundFrame a c p).toList = 0x0F47)

/-- R130: ENC. -/
def Obligations.EncBuildsFrame : Prop :=
  ∀ (a c : Byte) (p : Vector Byte 6) (s : State),
    encode (.enc a c p) = { word := 0x2000, seq := a :: c :: p.toList } ∧
    ∃ f : Vector Byte 10,
      exec (.enc a c p) s = .next { s with
        block := { s.block with txbuf := some f },
        responses := s.responses ++ [{ st := .ok, frame := some f.toList }] } ∧
      f.toList.take 8 = a :: c :: p.toList ∧
      f[8].toNat = (crc16 (a :: c :: p.toList)).toNat % 256 ∧
      f[9].toNat = (crc16 (a :: c :: p.toList)).toNat / 256

/-- R125 and R135: VFY. The length is checked first; the trailing bytes are read little-endian. -/
def Obligations.VfyAnswersVerdict : Prop :=
  ∀ (xs : List Byte) (s : State),
    encode (.vfy xs) = { word := 0x3000, seq := xs } ∧
    ∃ a : Response, exec (.vfy xs) s = .next { s with responses := s.responses ++ [a] } ∧
      (xs.length ≠ 8 → a = { st := .lengthError }) ∧
      (∀ l h, xs.length = 8 → xs[6]? = some l → xs[7]? = some h →
        ∃ r : U16, r.toNat = l.toNat + 256 * h.toNat ∧
          a = (if crc16 (xs.take 6) = r then
              { st := .ok, crc := some (crc16 (xs.take 6)), rcv := some r, frame := some xs }
            else { st := .crcError, crc := some (crc16 (xs.take 6)), rcv := some r }))

/-- R126: a 6-byte body with its CRC appended, low byte first, is verified. -/
def Obligations.VfyAcceptsAppendedCrc : Prop :=
  ∀ (b : List Byte) (s : State), b.length = 6 →
    exec (.vfy (b ++ [lo (crc16 b), hi (crc16 b)])) s = .next { s with responses := s.responses ++
      [{ st := .ok, crc := some (crc16 b), rcv := some (crc16 b),
         frame := some (b ++ [lo (crc16 b), hi (crc16 b)]) }] }

/-- R127: a valid frame with any one bit, or any two distinct bits, flipped is refused with
`CRC_ERROR`. -/
def Obligations.VfyRefusesOneAndTwoBitErrors : Prop :=
  ∀ (f : List Byte) (s : State), frameValid f = true →
    ∀ i j : Nat, i < 64 → j < 64 → i ≠ j →
      (∃ c r, exec (.vfy (flipBit f i)) s = .next { s with responses := s.responses ++
        [{ st := .crcError, crc := some c, rcv := some r }] }) ∧
      (∃ c r, exec (.vfy (flipBit (flipBit f i) j)) s = .next { s with responses := s.responses ++
        [{ st := .crcError, crc := some c, rcv := some r }] })

/-! ### The assembler -/

/-- R155: CLR. -/
def Obligations.ClrDiscardsAndArms : Prop :=
  ∀ s : State, encode .clr = { word := 0x4000, seq := [] } ∧
    exec .clr s = .next { s with
      block := { s.block with
        rxbuf := Vector.replicate 8 none, rxcnt := 0, res := .none, asm := .assembling },
      responses := s.responses ++ [{ st := .ok, statv := some 0x01 }] }

/-- R160 and R162: RXB stores the byte at `RXCNT` while assembling, ends the attempt with the
validator's outcome at the eighth byte, and drops the byte otherwise. -/
def Obligations.RxbStoresOrDrops : Prop :=
  ∀ (s : State) (v : Byte), s.block.Inv →
    encode (.rxb v) = { word := 0x5000#16 ||| v.setWidth 16, seq := [] } ∧
    (s.block.asm ≠ .assembling →
      exec (.rxb v) s = .next { s with responses := s.responses ++
        [{ st := .ok, acc := some false, statv := some s.block.stat }] }) ∧
    (∀ h : s.block.rxcnt.val < 7, s.block.asm = .assembling →
      exec (.rxb v) s = .next { s with
        block := { s.block with
          rxbuf := s.block.rxbuf.set s.block.rxcnt.val (some v) (Nat.lt_succ_of_lt h),
          rxcnt := ⟨s.block.rxcnt.val + 1, Nat.lt_succ_of_lt (Nat.succ_lt_succ h)⟩ },
        responses := s.responses ++
          [{ st := .ok, acc := some true,
             statv := some (BitVec.ofNat 8 (16 * (s.block.rxcnt.val + 1) + 1)) }] }) ∧
    (∀ bs : List Byte, s.block.rxcnt.val = 7 → s.block.asm = .assembling →
      s.block.rxbuf.toList.take 7 = bs.map some →
      exec (.rxb v) s = .next { s with
        block := { s.block with
          rxbuf := s.block.rxbuf.set 7 (some v), rxcnt := 8, asm := .done,
          res := if crc16 (bs.take 6) = le16 (bs ++ [v]) 6 then .ok else .crcError },
        responses := s.responses ++
          [{ st := .ok, acc := some true,
             statv := some (if crc16 (bs.take 6) = le16 (bs ++ [v]) 6 then 0x86 else 0x8A) }] })

/-- R166: ABT. -/
def Obligations.AbtEndsAttemptAsLengthError : Prop :=
  ∀ s : State, s.block.Inv →
    encode .abt = { word := 0x6000, seq := [] } ∧
    (s.block.asm = .assembling →
      exec .abt s = .next { s with
        block := { s.block with asm := .done, res := .lengthError },
        responses := s.responses ++
          [{ st := .ok, acc := some true,
             statv := some (BitVec.ofNat 8 (16 * s.block.rxcnt.val + 14)) }] }) ∧
    (s.block.asm ≠ .assembling →
      exec .abt s = .next { s with responses := s.responses ++
        [{ st := .ok, acc := some false, statv := some s.block.stat }] })

/-- R168: CAN. -/
def Obligations.CanReturnsToIdle : Prop :=
  ∀ s : State, encode .can = { word := 0x7000, seq := [] } ∧
    exec .can s = .next { s with
      block := { s.block with asm := .idle, res := .none },
      responses := s.responses ++
        [{ st := .ok, statv := some (BitVec.ofNat 8 (16 * s.block.rxcnt.val)) }] }

/-- R172 and R26: RDST reads `STAT`, whose fields are the codes of `ASM` and `RES` and the
count. -/
def Obligations.RdstReadsStat : Prop :=
  ∀ s : State, encode .rdst = { word := 0x9000, seq := [] } ∧
    ∃ v : Byte, exec .rdst s = .next { s with responses := s.responses ++
        [{ st := .ok, statv := some v }] } ∧
      v.toNat % 4 = (match s.block.asm with | .idle => 0 | .assembling => 1 | .done => 2) ∧
      v.toNat / 4 % 4 = (match s.block.res with
        | .none => 0 | .ok => 1 | .crcError => 2 | .lengthError => 3) ∧
      v.toNat / 16 = s.block.rxcnt.val

/-- R175: RDRX. -/
def Obligations.RdrxReadsStoredByte : Prop :=
  ∀ (s : State) (k : Byte), s.block.Inv →
    encode (.rdrx k) = { word := 0xA000#16 ||| k.setWidth 16, seq := [] } ∧
    (k.toNat < s.block.rxcnt.val →
      ∃ v, s.block.rxbuf[k.toNat]? = some (some v) ∧
        exec (.rdrx k) s = .next { s with responses := s.responses ++
          [{ st := .ok, byte := some v }] }) ∧
    (s.block.rxcnt.val ≤ k.toNat →
      exec (.rdrx k) s = .next { s with responses := s.responses ++ [{ st := .badIndex }] })

/-- R178: RDFR, and that the frame stays readable until CLR or CAN (or reset). -/
def Obligations.RdfrReadsVerifiedFrame : Prop :=
  ∀ s : State, s.block.Inv →
    encode .rdfr = { word := 0xB000, seq := [] } ∧
    (s.block.asm = .done → s.block.res = .ok →
      ∃ f : List Byte, s.block.rxbuf.toList = f.map some ∧
        exec .rdfr s = .next { s with responses := s.responses ++
          [{ st := .ok, frame := some f }] }) ∧
    (s.block.asm ≠ .done ∨ s.block.res ≠ .ok →
      exec .rdfr s = .next { s with responses := s.responses ++ [{ st := .notReady }] }) ∧
    (∀ (i : Instr) (t : State), s.block.asm = .done → s.block.res = .ok → i ≠ .clr → i ≠ .can →
      exec i s = .next t →
      t.block.asm = .done ∧ t.block.res = .ok ∧ t.block.rxbuf = s.block.rxbuf)

/-- R180: RDTX; `NOT_READY` comes before `BAD_INDEX`, and no instruction but ENC changes the
frame. -/
def Obligations.RdtxReadsFrameByte : Prop :=
  ∀ (s : State) (k : Byte),
    encode (.rdtx k) = { word := 0xC000#16 ||| k.setWidth 16, seq := [] } ∧
    (s.block.txbuf = none →
      exec (.rdtx k) s = .next { s with responses := s.responses ++ [{ st := .notReady }] }) ∧
    (∀ f, s.block.txbuf = some f → 10 ≤ k.toNat →
      exec (.rdtx k) s = .next { s with responses := s.responses ++ [{ st := .badIndex }] }) ∧
    (∀ f v, s.block.txbuf = some f → f.toList[k.toNat]? = some v →
      exec (.rdtx k) s = .next { s with responses := s.responses ++
        [{ st := .ok, byte := some v }] }) ∧
    (∀ (i : Instr) (t : State), (∀ a c p, i ≠ .enc a c p) → exec i s = .next t →
      t.block.txbuf = s.block.txbuf)

/-! ### Whole-machine rules -/

/-- R46: the reads, CRC, VFY and DEC change no state, and asked again give the same answer. -/
def Obligations.ReadOnlyRequestsRepeat : Prop :=
  ∀ (i : Instr) (s t : State), readsOnly i = true → exec i s = .next t →
    t.block = s.block ∧
    ∃ a, t.responses = s.responses ++ [a] ∧
      exec i t = .next { t with responses := t.responses ++ [a] }

/-- R24: only ENC writes `TXBUF`, and a cell of `RXBUF` changes only when CLR empties it or when
RXB, while assembling, stores its byte at index `RXCNT`. -/
def Obligations.BuffersHaveOneWriter : Prop :=
  ∀ (i : Instr) (s t : State), exec i s = .next t →
    (t.block.txbuf ≠ s.block.txbuf → ∃ a c p, i = .enc a c p) ∧
    (∀ k : Fin 8, t.block.rxbuf[k] ≠ s.block.rxbuf[k] →
      (i = .clr ∧ t.block.rxbuf[k] = none) ∨
      (∃ v, i = .rxb v ∧ s.block.asm = .assembling ∧ k.val = s.block.rxcnt.val ∧
        t.block.rxbuf[k] = some v))

/-- R25: `RXCNT` advances by exactly 1, on an accepted byte, and only CLR sets it back to 0. -/
def Obligations.CountAdvancesByOne : Prop :=
  ∀ (i : Instr) (s t : State), exec i s = .next t →
    t.block.rxcnt ≠ s.block.rxcnt →
    (i = .clr ∧ t.block.rxcnt = 0) ∨
    (∃ v, i = .rxb v ∧ s.block.asm = .assembling ∧
      t.block.rxcnt.val = s.block.rxcnt.val + 1)

/-- R27: what sets `STAT.ASM`. -/
def Obligations.PhaseChangesOnlyAsListed : Prop :=
  ∀ (i : Instr) (s t : State), exec i s = .next t →
    t.block.asm ≠ s.block.asm →
    (t.block.asm = .assembling ∧ i = .clr) ∨
    (t.block.asm = .idle ∧ i = .can) ∨
    (t.block.asm = .done ∧ s.block.asm = .assembling ∧
      (i = .abt ∨ ∃ v, i = .rxb v ∧ s.block.rxcnt.val = 7))

/-- R102, R122, R130 and R135: the answers of CRC, ENC, VFY and DEC do not depend on the block's
state. -/
def Obligations.CodecAnswersIgnoreBlock : Prop :=
  ∀ (i : Instr) (s₁ s₂ : State), statesNothing i = true → s₁.cfg = s₂.cfg →
    ∃ a t₁ t₂, exec i s₁ = .next t₁ ∧ exec i s₂ = .next t₂ ∧
      t₁.responses = s₁.responses ++ [a] ∧ t₂.responses = s₂.responses ++ [a] ∧
      t₁.block.rxbuf = s₁.block.rxbuf ∧ t₁.block.asm = s₁.block.asm ∧
      t₁.block.res = s₁.block.res ∧ t₁.block.rxcnt = s₁.block.rxcnt

/-- R178, D21: a frame RDFR hands out is a verified one. -/
def Obligations.RdfrHandsOutOnlyValidFrames : Prop :=
  ∀ (s t : State) (f : List Byte), s.block.VerdictHolds → exec .rdfr s = .next t →
    t.responses = s.responses ++ [{ st := .ok, frame := some f }] → frameValid f = true

/-- R162, R49: after CLR, `RXBUF[i]` is the i-th byte presented, and the frame is recognised
exactly at the eighth, with the validator's outcome. -/
def Obligations.EighthByteEndsTheAttempt : Prop :=
  ∀ (s : State) (bs : List Byte) (rest : List Input), bs.length ≤ 8 →
    s.inputs = .request (encode .clr) ::
      (bs.map (fun b => Input.request (encode (.rxb b))) ++ rest) →
    ∃ t, Host.Core.run Sys2Proof.core (bs.length + 1) s = .next t ∧ t.inputs = rest ∧
      t.block.rxcnt.val = bs.length ∧
      (∀ k : Nat, k < 8 → t.block.rxbuf[k]? = some bs[k]?) ∧
      t.block.txbuf = s.block.txbuf ∧
      (bs.length < 8 → t.block.asm = .assembling ∧ t.block.res = .none) ∧
      (bs.length = 8 → t.block.asm = .done ∧
        t.block.res = if frameValid bs then .ok else .crcError)

/-- R207: the eighth byte against the deadline is decided by the order of RXB and ABT. -/
def Obligations.IssueOrderDecidesDeadline : Prop :=
  ∀ (s : State) (v : Byte) (bs : List Byte), s.block.Inv → s.block.asm = .assembling →
    s.block.rxcnt.val = 7 → s.block.rxbuf.toList.take 7 = bs.map some →
    (∃ t u, exec (.rxb v) s = .next t ∧ exec .abt t = .next u ∧ u.block = t.block ∧
      u.block.asm = .done ∧
      u.block.res = if frameValid (bs ++ [v]) then .ok else .crcError) ∧
    (∃ t u, exec .abt s = .next t ∧ exec (.rxb v) t = .next u ∧ u.block = t.block ∧
      u.block.asm = .done ∧ u.block.res = .lengthError)

/-- Log entry 4: in the states R23 excludes, where the spec gives no effect, RXB, RDRX and RDFR
stop by name. -/
def Obligations.ExcludedStatesStopByName : Prop :=
  ∀ (s : State) (v k : Byte),
    (s.block.asm = .assembling → s.block.rxcnt = 8 → exec (.rxb v) s = .fault .rxOverrun) ∧
    (s.block.asm = .assembling → s.block.rxcnt = 7 →
      (∃ j : Fin 7, s.block.rxbuf[j.val] = none) → exec (.rxb v) s = .fault .emptyCell) ∧
    (k.toNat < s.block.rxcnt.val → s.block.rxbuf[k.toNat]? = some none →
      exec (.rdrx k) s = .fault .emptyCell) ∧
    (s.block.asm = .done → s.block.res = .ok → (∃ j : Fin 8, s.block.rxbuf[j.val] = none) →
      exec .rdfr s = .fault .emptyCell)
end

