-- ==== Sys2Proof/Laws/Crc.lean ====
section
/-! SUPPORT. The CRC's round as one shift of the register (41_codec.md R120), and the shift's
linearity. -/

namespace Sys2Proof.Machine

/-- The test of R120's loop reads the register's least significant bit. -/
theorem and_one_eq_one (x : U16) : (x &&& 1 = 1) ↔ x.getLsbD 0 = true := by
  rw [show (1 : U16) = 1#16 from rfl, BitVec.and_one_eq_setWidth_ofBool_getLsbD]
  cases x.getLsbD 0 <;> decide

/-- One round of R120's loop is one shift, against bit 0 of the byte. -/
theorem crcBits_succ (k : Nat) (r : U16) (b : Byte) :
    crcBits (k + 1) r b = crcBits k (shiftBit r (b.getLsbD 0)) (b >>> 1) := by
  rw [crcBits]
  congr 1
  unfold shiftBit
  simp only [and_one_eq_one]
  cases hr : r.getLsbD 0 <;> cases hb : b.getLsbD 0 <;> simp_all [crcPoly]

/-- The polynomial, where the outgoing bit selects it. -/
def tap (bit : Bool) : U16 := if bit then 0x8408 else 0

theorem tap_xor (a b : Bool) : tap (a ^^ b) = tap a ^^^ tap b := by
  revert a b
  decide

/-- The shift as a right shift and a tap. -/
theorem shiftBit_eq (r : U16) (a : Bool) :
    shiftBit r a = (r >>> 1) ^^^ tap (r.getLsbD 0 ^^ a) := by
  unfold shiftBit tap
  cases r.getLsbD 0 <;> cases a <;> simp

/-- The shift is linear over exclusive-or. -/
theorem shiftBit_xor (r q : U16) (a b : Bool) :
    shiftBit (r ^^^ q) (a ^^ b) = shiftBit r a ^^^ shiftBit q b := by
  simp only [shiftBit_eq, BitVec.getLsbD_xor, BitVec.ushiftRight_xor_distrib, tap_xor]
  ac_rfl

end Sys2Proof.Machine
end

