-- ==== Sys2Proof/Laws/Decode.lean ====
section
/-! SUPPORT. The fields of a word built from fields, and a word rebuilt from its fields
(30_encoding.md R64). -/

namespace Sys2Proof

@[simp] theorem opOf_mkWord (op fn : BitVec 4) (imm : Byte) : opOf (mkWord op fn imm) = op := by
  apply BitVec.eq_of_getLsbD_eq
  intro k hk
  have h1 : ¬ 12 + k < 8 := by omega
  have h2 : ¬ 12 + k - 8 < 4 := by omega
  have h3 : 12 + k - 8 - 4 = k := by omega
  simp only [opOf, mkWord, BitVec.getLsbD_extractLsb', BitVec.getLsbD_append, hk, h1, h2, h3]
  simp

@[simp] theorem fnOf_mkWord (op fn : BitVec 4) (imm : Byte) : fnOf (mkWord op fn imm) = fn := by
  apply BitVec.eq_of_getLsbD_eq
  intro k hk
  have h1 : ¬ 8 + k < 8 := by omega
  have h3 : 8 + k - 8 = k := by omega
  simp only [fnOf, mkWord, BitVec.getLsbD_extractLsb', BitVec.getLsbD_append, hk, h1, h3]
  simp [hk]

@[simp] theorem immOf_mkWord (op fn : BitVec 4) (imm : Byte) :
    immOf (mkWord op fn imm) = imm := by
  apply BitVec.eq_of_getLsbD_eq
  intro k hk
  have h2 : 0 + k = k := by omega
  simp only [immOf, mkWord, BitVec.getLsbD_extractLsb', BitVec.getLsbD_append, hk, h2]
  simp

@[simp] theorem mkWord_fields (w : U16) : mkWord (opOf w) (fnOf w) (immOf w) = w := by
  apply BitVec.eq_of_getLsbD_eq
  intro k hk
  simp only [opOf, fnOf, immOf, mkWord, BitVec.getLsbD_extractLsb', BitVec.getLsbD_append]
  split
  · rename_i h; simp [h]
  · split
    · rename_i h1 h2
      have h3 : 8 + (k - 8) = k := by omega
      simp [h2, h3]
    · rename_i h1 h2
      have h3 : 12 + (k - 8 - 4) = k := by omega
      have h4 : k - 8 - 4 < 4 := by omega
      simp [h3, h4]

/-- A request is legal exactly when none of the six conditions of R69 holds. -/
theorem illegality_eq_none (m : Option Nat) (r : Request) :
    illegality m r = none ↔
      ¬(opOf r.word = 0x0 ∨ opOf r.word = 0xD ∨ opOf r.word = 0xE ∨ opOf r.word = 0xF) ∧
      ¬(opOf r.word = 0x8 ∧ 3 < fnOf r.word) ∧
      ¬(opOf r.word ≠ 0x8 ∧ fnOf r.word ≠ 0) ∧
      ¬(¬(opOf r.word = 0x5 ∨ opOf r.word = 0x8 ∨ opOf r.word = 0xA ∨ opOf r.word = 0xC) ∧
        immOf r.word ≠ 0) ∧
      (∀ n, requiredCount (opOf r.word) = some n → r.seq.length = n) ∧
      ¬((opOf r.word = 0x1 ∨ opOf r.word = 0x3 ∨ opOf r.word = 0x8) ∧
        exceedsSeqMax m r.seq = true) := by
  have guard : ∀ (p : Prop) [Decidable p] (e : Illegal) (x : Option Illegal),
      (if p then some e else x) = none ↔ ¬p ∧ x = none := by
    intro p _ e x
    by_cases h : p <;> simp [h]
  have count : (requiredCount (opOf r.word)).any (· != r.seq.length) = false ↔
      ∀ n, requiredCount (opOf r.word) = some n → r.seq.length = n := by
    cases requiredCount (opOf r.word) with
    | none => simp
    | some n => simpa using eq_comm
  simp only [illegality, guard, Bool.not_eq_true, count, and_true]

/-- A 4-bit code is one of sixteen. -/
theorem opcode_cases (op : BitVec 4) :
    op = 0x0 ∨ op = 0x1 ∨ op = 0x2 ∨ op = 0x3 ∨ op = 0x4 ∨ op = 0x5 ∨ op = 0x6 ∨ op = 0x7 ∨
    op = 0x8 ∨ op = 0x9 ∨ op = 0xA ∨ op = 0xB ∨ op = 0xC ∨ op = 0xD ∨ op = 0xE ∨ op = 0xF := by
  revert op
  decide

/-- A sequence fits `SEQ_MAX` exactly when the decoder does not find it too long. -/
theorem fitsSeqMax_iff (m : Option Nat) (s : List Byte) :
    fitsSeqMax m s = true ↔ exceedsSeqMax m s = false := by
  cases m <;> simp [fitsSeqMax, exceedsSeqMax]

end Sys2Proof
end

