-- ==== Sys2Proof/Laws/State.lean ====
section
/-! SUPPORT. One lemma per field per update of the state and of the block, so that no proof unfolds
a record update. -/

namespace Sys2Proof.Machine

/-! ### `State.respond` -/

@[simp] theorem State.respond_block (s : State) (r : Response) :
    (s.respond r).block = s.block := rfl

@[simp] theorem State.respond_cfg (s : State) (r : Response) :
    (s.respond r).cfg = s.cfg := rfl

@[simp] theorem State.respond_inputs (s : State) (r : Response) :
    (s.respond r).inputs = s.inputs := rfl

@[simp] theorem State.respond_responses (s : State) (r : Response) :
    (s.respond r).responses = s.responses ++ [r] := rfl

/-! ### `State.raise` -/

@[simp] theorem State.raise_block (s : State) (e : Status) :
    (s.raise e).block = s.block := rfl

@[simp] theorem State.raise_cfg (s : State) (e : Status) :
    (s.raise e).cfg = s.cfg := rfl

@[simp] theorem State.raise_inputs (s : State) (e : Status) :
    (s.raise e).inputs = s.inputs := rfl

@[simp] theorem State.raise_responses (s : State) (e : Status) :
    (s.raise e).responses = s.responses ++ [{ st := e }] := rfl

/-! ### `State.withBlock` -/

@[simp] theorem State.withBlock_block (s : State) (b : Block) :
    (s.withBlock b).block = b := rfl

@[simp] theorem State.withBlock_cfg (s : State) (b : Block) :
    (s.withBlock b).cfg = s.cfg := rfl

@[simp] theorem State.withBlock_inputs (s : State) (b : Block) :
    (s.withBlock b).inputs = s.inputs := rfl

@[simp] theorem State.withBlock_responses (s : State) (b : Block) :
    (s.withBlock b).responses = s.responses := rfl

/-! ### `State.resetEvent` -/

@[simp] theorem State.resetEvent_block (s : State) :
    (s.resetEvent).block = Block.reset := rfl

@[simp] theorem State.resetEvent_cfg (s : State) :
    (s.resetEvent).cfg = s.cfg := rfl

@[simp] theorem State.resetEvent_inputs (s : State) :
    (s.resetEvent).inputs = s.inputs := rfl

@[simp] theorem State.resetEvent_responses (s : State) :
    (s.resetEvent).responses = s.responses := rfl

/-! ### `State.refuseIllegal` -/

@[simp] theorem State.refuseIllegal_block (s : State) :
    (s.refuseIllegal).block = s.block := rfl

@[simp] theorem State.refuseIllegal_cfg (s : State) :
    (s.refuseIllegal).cfg = s.cfg := rfl

@[simp] theorem State.refuseIllegal_inputs (s : State) :
    (s.refuseIllegal).inputs = s.inputs := rfl

@[simp] theorem State.refuseIllegal_responses (s : State) :
    (s.refuseIllegal).responses = s.responses ++ [{ st := .illegal }] := rfl

/-! ### `Block.arm` -/

@[simp] theorem Block.arm_asm (b : Block) :
    (b.arm).asm = .assembling := rfl

@[simp] theorem Block.arm_res (b : Block) :
    (b.arm).res = .none := rfl

@[simp] theorem Block.arm_rxcnt (b : Block) :
    (b.arm).rxcnt = 0 := rfl

@[simp] theorem Block.arm_rxbuf (b : Block) :
    (b.arm).rxbuf = Vector.replicate 8 .none := rfl

@[simp] theorem Block.arm_txbuf (b : Block) :
    (b.arm).txbuf = b.txbuf := rfl

/-! ### `Block.finish` -/

@[simp] theorem Block.finish_asm (b : Block) (r : Res) :
    (b.finish r).asm = .done := rfl

@[simp] theorem Block.finish_res (b : Block) (r : Res) :
    (b.finish r).res = r := rfl

@[simp] theorem Block.finish_rxcnt (b : Block) (r : Res) :
    (b.finish r).rxcnt = b.rxcnt := rfl

@[simp] theorem Block.finish_rxbuf (b : Block) (r : Res) :
    (b.finish r).rxbuf = b.rxbuf := rfl

@[simp] theorem Block.finish_txbuf (b : Block) (r : Res) :
    (b.finish r).txbuf = b.txbuf := rfl

/-! ### `Block.cancel` -/

@[simp] theorem Block.cancel_asm (b : Block) :
    (b.cancel).asm = .idle := rfl

@[simp] theorem Block.cancel_res (b : Block) :
    (b.cancel).res = .none := rfl

@[simp] theorem Block.cancel_rxcnt (b : Block) :
    (b.cancel).rxcnt = b.rxcnt := rfl

@[simp] theorem Block.cancel_rxbuf (b : Block) :
    (b.cancel).rxbuf = b.rxbuf := rfl

@[simp] theorem Block.cancel_txbuf (b : Block) :
    (b.cancel).txbuf = b.txbuf := rfl

/-! ### `Block.setTx` -/

@[simp] theorem Block.setTx_asm (b : Block) (f : Vector Byte 10) :
    (b.setTx f).asm = b.asm := rfl

@[simp] theorem Block.setTx_res (b : Block) (f : Vector Byte 10) :
    (b.setTx f).res = b.res := rfl

@[simp] theorem Block.setTx_rxcnt (b : Block) (f : Vector Byte 10) :
    (b.setTx f).rxcnt = b.rxcnt := rfl

@[simp] theorem Block.setTx_rxbuf (b : Block) (f : Vector Byte 10) :
    (b.setTx f).rxbuf = b.rxbuf := rfl

@[simp] theorem Block.setTx_txbuf (b : Block) (f : Vector Byte 10) :
    (b.setTx f).txbuf = some f := rfl

/-! ### `Block.store` -/

@[simp] theorem Block.store_asm (b : Block) (v : Byte) (h : b.rxcnt.val < 8) :
    (b.store v h).asm = b.asm := rfl

@[simp] theorem Block.store_res (b : Block) (v : Byte) (h : b.rxcnt.val < 8) :
    (b.store v h).res = b.res := rfl

@[simp] theorem Block.store_rxcnt (b : Block) (v : Byte) (h : b.rxcnt.val < 8) :
    (b.store v h).rxcnt = ⟨b.rxcnt.val + 1, Nat.succ_lt_succ h⟩ := rfl

@[simp] theorem Block.store_rxbuf (b : Block) (v : Byte) (h : b.rxcnt.val < 8) :
    (b.store v h).rxbuf = b.rxbuf.set b.rxcnt.val (some v) h := rfl

@[simp] theorem Block.store_txbuf (b : Block) (v : Byte) (h : b.rxcnt.val < 8) :
    (b.store v h).txbuf = b.txbuf := rfl

/-! ### Reset (10_state.md R32) -/

@[simp] theorem Block.reset_asm  :
    Block.reset.asm = .idle := rfl

@[simp] theorem Block.reset_res  :
    Block.reset.res = .none := rfl

@[simp] theorem Block.reset_rxcnt  :
    Block.reset.rxcnt = 0 := rfl

@[simp] theorem Block.reset_rxbuf  :
    Block.reset.rxbuf = Vector.replicate 8 .none := rfl

@[simp] theorem Block.reset_txbuf  :
    Block.reset.txbuf = .none := rfl

end Sys2Proof.Machine
end

