-- ==== Sys2Proof/Laws/Ops.lean ====
section
/-! SUPPORT. For each shared operation, once, everything it can do; then for `exec` and `step`. -/

namespace Sys2Proof.Machine

/-! ### The receive buffer -/

/-- The cells all hold values exactly when they are the values' images. -/
theorem cellValues_eq_some (cs : List (Option Byte)) (f : List Byte) :
    cellValues cs = some f ↔ cs = f.map some := by
  induction cs generalizing f with
  | nil => cases f <;> simp [cellValues]
  | cons c cs ih =>
    cases c with
    | none => cases f <;> simp [cellValues]
    | some v =>
      cases f with
      | nil => simp [cellValues]
      | cons w f => simp [cellValues, ih, and_comm]

/-- `RXBUF[0..8)` read as bytes. -/
theorem rxFrame_eq_some (buf : Vector (Option Byte) 8) (f : List Byte) :
    rxFrame buf = some f ↔ buf.toList = f.map some := cellValues_eq_some _ _

theorem rxFrame_length {buf : Vector (Option Byte) 8} {f : List Byte}
    (h : rxFrame buf = some f) : f.length = 8 := by
  have := congrArg List.length ((rxFrame_eq_some buf f).1 h)
  simpa using this.symm

/-- Every cell below 8 holds a value exactly when the buffer reads as a frame. -/
theorem rxFrame_isSome (buf : Vector (Option Byte) 8) (h : ∀ i : Fin 8, buf[i] ≠ none) :
    ∃ f, rxFrame buf = some f := by
  refine ⟨buf.toList.map (·.getD 0), (rxFrame_eq_some _ _).2 ?_⟩
  apply List.ext_getElem
  · simp
  · intro k h1 h2
    have hk : k < 8 := by simpa using h1
    have := h ⟨k, hk⟩
    simp only [Fin.getElem_fin] at this
    cases hv : buf[k] with
    | none => exact absurd hv this
    | some v => simp [hv]

/-! ### The outbound frame (41_codec.md R130) -/

/-- The frame's bytes in wire order. -/
@[simp] theorem outboundFrame_toList (a c : Byte) (p : Vector Byte 6) :
    (outboundFrame a c p).toList = a :: c :: (p.toList ++
      [lo (crc16 (a :: c :: p.toList)), hi (crc16 (a :: c :: p.toList))]) := by
  simp [outboundFrame]

/-! ### The validator (41_codec.md R125) -/

/-- `verify` on 8 bytes: OK or CRC_ERROR, by the frame's validity. -/
theorem verify_res {f : List Byte} (h : f.length = 8) :
    (verify f).res = if frameValid f then .ok else .crcError := by
  unfold verify frameValid
  by_cases hc : crc16 (f.take 6) = le16 f 6 <;> simp [h, hc, Verdict.res]

/-! ### The assembler (42_assembler.md R160, R162) -/

/-- What an accepted byte does. -/
theorem Block.accept_ok {b b' : Block} {v : Byte} (h : b.accept v = .ok b') :
    ∃ hc : b.rxcnt.val < 8,
      (b.rxcnt.val < 7 ∧ b' = b.store v hc) ∨
      (b.rxcnt.val = 7 ∧ ∃ f, rxFrame (b.store v hc).rxbuf = some f ∧
        b' = (b.store v hc).finish (verify f).res) := by
  unfold Block.accept at h
  split at h
  · rename_i hc
    refine ⟨hc, ?_⟩
    unfold Block.recognise at h
    split at h
    · rename_i h8
      have h7 : b.rxcnt.val = 7 := by simpa using h8
      split at h
      · rename_i f hf
        exact .inr ⟨h7, f, hf, by simpa using h.symm⟩
      · cases h
    · rename_i h8
      have : b.rxcnt.val < 7 := by simp at h8; omega
      exact .inl ⟨this, by simpa using h.symm⟩
  · cases h

/-- A byte before the eighth is accepted. -/
theorem Block.accept_early {b : Block} (v : Byte) (h : b.rxcnt.val < 7) :
    b.accept v = .ok (b.store v (Nat.lt_succ_of_lt h)) := by
  have hc : b.rxcnt.val < 8 := Nat.lt_succ_of_lt h
  have hn : ¬ b.rxcnt.val = 7 := by omega
  simp [Block.accept, Block.recognise, hc, hn]

/-- The eighth byte is accepted when the cells hold values. -/
theorem Block.accept_eighth {b : Block} (v : Byte) (h : b.rxcnt.val = 7) {f : List Byte}
    (hf : rxFrame (b.store v (by omega)).rxbuf = some f) :
    b.accept v = .ok ((b.store v (by omega)).finish (verify f).res) := by
  have hc : b.rxcnt.val < 8 := by omega
  unfold Block.accept Block.recognise
  rw [dif_pos hc, if_pos (by simp [h]), hf]

/-! ### `exec` and `step` -/

/-- Everything an instruction can do: it answers once, and the block moves in one of six ways. -/
theorem exec_next {i : Instr} {s t : State} (h : exec i s = .next t) :
    ∃ a b, t = (s.withBlock b).respond a ∧
      (b = s.block ∨
       (∃ x y p, i = .enc x y p ∧ b = s.block.setTx (outboundFrame x y p)) ∨
       (i = .clr ∧ b = s.block.arm) ∨
       (∃ v, i = .rxb v ∧ s.block.asm = .assembling ∧ s.block.accept v = .ok b) ∨
       (i = .abt ∧ s.block.asm = .assembling ∧ b = s.block.finish .lengthError) ∨
       (i = .can ∧ b = s.block.cancel)) := by
  have same : ∀ a, s.respond a = (s.withBlock s.block).respond a := fun _ => rfl
  cases i with
  | crc xs => cases h; exact ⟨_, _, same _, .inl rfl⟩
  | enc x y p => cases h; exact ⟨_, _, rfl, .inr (.inl ⟨x, y, p, rfl, rfl⟩)⟩
  | vfy xs => cases h; exact ⟨_, _, same _, .inl rfl⟩
  | clr => cases h; exact ⟨_, _, rfl, .inr (.inr (.inl ⟨rfl, rfl⟩))⟩
  | rxb v =>
    simp only [exec, execRxb] at h
    split at h
    · rename_i ha
      split at h
      · rename_i b hb
        cases h
        exact ⟨_, _, rfl, .inr (.inr (.inr (.inl ⟨v, rfl, ha, hb⟩)))⟩
      · cases h
    · cases h; exact ⟨_, _, same _, .inl rfl⟩
    · cases h; exact ⟨_, _, same _, .inl rfl⟩
  | abt =>
    simp only [exec, execAbt] at h
    split at h
    · rename_i ha
      cases h
      exact ⟨_, _, rfl, .inr (.inr (.inr (.inr (.inl ⟨rfl, ha, rfl⟩))))⟩
    · cases h; exact ⟨_, _, same _, .inl rfl⟩
    · cases h; exact ⟨_, _, same _, .inl rfl⟩
  | can => cases h; exact ⟨_, _, rfl, .inr (.inr (.inr (.inr (.inr ⟨rfl, rfl⟩))))⟩
  | decU16 o xs => cases h; exact ⟨_, _, same _, .inl rfl⟩
  | decI16 o xs => cases h; exact ⟨_, _, same _, .inl rfl⟩
  | decU32 o xs => cases h; exact ⟨_, _, same _, .inl rfl⟩
  | decF32 o xs => cases h; exact ⟨_, _, same _, .inl rfl⟩
  | rdst => cases h; exact ⟨_, _, same _, .inl rfl⟩
  | rdrx k =>
    simp only [exec, execRdrx] at h
    split at h
    · split at h
      · cases h; exact ⟨_, _, same _, .inl rfl⟩
      · cases h
    · cases h; exact ⟨_, _, same _, .inl rfl⟩
  | rdfr =>
    simp only [exec, execRdfr] at h
    split at h
    · split at h
      · cases h; exact ⟨_, _, same _, .inl rfl⟩
      · cases h
    · cases h; exact ⟨_, _, same _, .inl rfl⟩
  | rdtx k =>
    simp only [exec, execRdtx] at h
    split at h
    · cases h; exact ⟨_, _, same _, .inl rfl⟩
    · split at h
      · cases h; exact ⟨_, _, same _, .inl rfl⟩
      · cases h; exact ⟨_, _, same _, .inl rfl⟩

/-- Everything a step can do: hold, reset, run a legal request, or refuse an illegal one. -/
theorem step_cases (s : State) :
    (s.inputs = [] ∧ step s = .next s) ∨
    (∃ rest, s.inputs = .reset :: rest ∧
      step s = .next (State.resetEvent { s with inputs := rest })) ∨
    (∃ r rest i, s.inputs = .request r :: rest ∧ decode s.cfg.seqMax r = .ok i ∧
      step s = exec i { s with inputs := rest }) ∨
    (∃ r rest e, s.inputs = .request r :: rest ∧ decode s.cfg.seqMax r = .error e ∧
      step s = .next (State.refuseIllegal { s with inputs := rest })) := by
  unfold step State.nextInput
  cases hs : s.inputs with
  | nil => exact .inl ⟨rfl, rfl⟩
  | cons x rest =>
    cases x with
    | reset => exact .inr (.inl ⟨rest, rfl, rfl⟩)
    | request r =>
      cases hd : decode s.cfg.seqMax r with
      | ok i => exact .inr (.inr (.inl ⟨r, rest, i, rfl, hd, by simp [hd]⟩))
      | error e => exact .inr (.inr (.inr ⟨r, rest, e, rfl, hd, by simp [hd]⟩))

/-- A step changes the block through a reset event or an instruction, or not at all. -/
theorem step_block {s t : State} (h : step s = .next t) :
    t.block = s.block ∨ t.block = Block.reset ∨
    ∃ i rest, exec i { s with inputs := rest } = .next t := by
  rcases step_cases s with ⟨_, e⟩ | ⟨rest, _, e⟩ | ⟨r, rest, i, _, _, e⟩ | ⟨r, rest, i, _, _, e⟩
  · rw [e] at h; cases h; exact .inl rfl
  · rw [e] at h; cases h; exact .inr (.inl rfl)
  · rw [e] at h; exact .inr (.inr ⟨i, rest, h⟩)
  · rw [e] at h; cases h; exact .inl rfl

end Sys2Proof.Machine
end

