-- ==== Sys2Proof/Laws/PerInstr.lean ====
section
/-! SUPPORT. For each instruction: its encoded word has the bits its row of
spec/opcode_table.json fixes. -/

namespace Sys2Proof.Laws.TableRow

/-- The encoded word meets the `match` of the instruction's row under the row's `mask`. -/
def Statement (i : Instr) : Prop := (encode i).word &&& tableMask i = tableMatch i

/-- The high byte of a word with an immediate does not depend on the immediate. -/
theorem mkWord_high (op fn : BitVec 4) (imm : Byte) :
    mkWord op fn imm &&& 0xFF00 = mkWord op fn 0 := by
  have h : ∀ j : Fin 16, (0xFF00#16).getLsbD j.val = decide (8 ≤ j.val) := by decide
  apply BitVec.eq_of_getLsbD_eq
  intro k hk
  have hj : (65280#16).getLsbD k = decide (8 ≤ k) := h ⟨k, hk⟩
  simp only [mkWord, BitVec.getLsbD_and, BitVec.getLsbD_append]
  rw [show (0xFF00 : U16) = 65280#16 from rfl, hj]
  by_cases h8 : k < 8
  · have h9 : ¬ 8 ≤ k := by omega
    simp [h8, h9]
  · have h9 : 8 ≤ k := by omega
    simp [h8, h9]

theorem crc (s : List Byte) : Statement (.crc s) :=
  (by decide : mkWord 0x1 0x0 0x00 &&& 0xFFFF = 0x1000)
theorem enc (a c : Byte) (p : Vector Byte 6) : Statement (.enc a c p) :=
  (by decide : mkWord 0x2 0x0 0x00 &&& 0xFFFF = 0x2000)
theorem vfy (s : List Byte) : Statement (.vfy s) :=
  (by decide : mkWord 0x3 0x0 0x00 &&& 0xFFFF = 0x3000)
theorem clr : Statement .clr :=
  (by decide : mkWord 0x4 0x0 0x00 &&& 0xFFFF = 0x4000)
theorem rxb (b : Byte) : Statement (.rxb b) := mkWord_high 0x5 0x0 b
theorem abt : Statement .abt :=
  (by decide : mkWord 0x6 0x0 0x00 &&& 0xFFFF = 0x6000)
theorem can : Statement .can :=
  (by decide : mkWord 0x7 0x0 0x00 &&& 0xFFFF = 0x7000)
theorem decU16 (o : Byte) (s : List Byte) : Statement (.decU16 o s) := mkWord_high 0x8 0x0 o
theorem decI16 (o : Byte) (s : List Byte) : Statement (.decI16 o s) := mkWord_high 0x8 0x1 o
theorem decU32 (o : Byte) (s : List Byte) : Statement (.decU32 o s) := mkWord_high 0x8 0x2 o
theorem decF32 (o : Byte) (s : List Byte) : Statement (.decF32 o s) := mkWord_high 0x8 0x3 o
theorem rdst : Statement .rdst :=
  (by decide : mkWord 0x9 0x0 0x00 &&& 0xFFFF = 0x9000)
theorem rdrx (i : Byte) : Statement (.rdrx i) := mkWord_high 0xA 0x0 i
theorem rdfr : Statement .rdfr :=
  (by decide : mkWord 0xB 0x0 0x00 &&& 0xFFFF = 0xB000)
theorem rdtx (i : Byte) : Statement (.rdtx i) := mkWord_high 0xC 0x0 i

end Sys2Proof.Laws.TableRow
end

