-- ==== Sys2Proof/Tests/Slice0.lean ====
section
/-! SUPPORT. Own tests. Expected values are those of spec/95_test_vectors.md (the V- and S-numbers
named beside each) or hand calculation from the rule named; then a witness for the hypotheses of
each statement. -/

namespace Sys2Proof.Tests

open Sys2Proof.Machine

/-! ### Helpers -/

/-- A block with the bytes `bs` received. -/
def blockWith (asm : Asm) (res : Res) (bs : List Byte) : Block :=
  { asm := asm, res := res, rxcnt := Fin.ofNat 9 bs.length,
    rxbuf := #v[bs[0]?, bs[1]?, bs[2]?, bs[3]?, bs[4]?, bs[5]?, bs[6]?, bs[7]?], txbuf := none }

/-- The reset state with another block, and one request presented. -/
def stateWith (b : Block) (w : U16) (xs : List Byte) : State :=
  { State.reset with block := b, inputs := [.request { word := w, seq := xs }] }

/-- The last response after one step. -/
def answer (s : State) : Option Response := (nextOf (step s)).bind (·.responses.getLast?)

/-- The block after one step. -/
def blockAfter (s : State) : Option Block := (nextOf (step s)).map (·.block)

/-- `RXBUF[0..7) = 00 00 43 66 00 00 61`, assembling (V-ASM-5). -/
def seven : Block := blockWith .assembling .none [0x00, 0x00, 0x43, 0x66, 0x00, 0x00, 0x61]

/-- The verified frame of V-ASM-15. -/
def verified : Block := blockWith .done .ok [0x00, 0x00, 0x43, 0x66, 0x00, 0x00, 0x61, 0x17]

/-- The block after V-ENC-1. -/
def encoded : Block :=
  { Block.reset with txbuf := some #v[0x02, 0x3B, 0x01, 0x01, 0x00, 0x00, 0x00, 0x00, 0xBB, 0x27] }

/-- A bounded instance: `SEQ_MAX = 2`. -/
def bounded : State := { State.reset with cfg := { Config.default with seqMax := some 2 } }

/-! ### WellFormed: an ill-formed term for each check, which it refuses -/

theorem test_wf_refuses_long_crc : (Instr.crc [1, 2, 3]).wf (some 2) = false := by decide
theorem test_wf_refuses_long_vfy : (Instr.vfy [1, 2, 3]).wf (some 2) = false := by decide
theorem test_wf_refuses_long_decU16 : (Instr.decU16 0 [1, 2, 3]).wf (some 2) = false := by decide
theorem test_wf_refuses_long_decI16 : (Instr.decI16 0 [1, 2, 3]).wf (some 2) = false := by decide
theorem test_wf_refuses_long_decU32 : (Instr.decU32 0 [1, 2, 3]).wf (some 2) = false := by decide
theorem test_wf_refuses_long_decF32 : (Instr.decF32 0 [1, 2, 3]).wf (some 2) = false := by decide
theorem test_wf_admits_bound : (Instr.crc [1, 2]).wf (some 2) = true := by decide

/-! ### Decoding: one word written out from the table of R72 for each constructor -/

theorem test_decode_crc :
    decode none { word := 0b0001000000000000, seq := [7] } = .ok (.crc [7]) := by decide
theorem test_decode_enc :
    decode none { word := 0b0010000000000000, seq := [1, 2, 3, 4, 5, 6, 7, 8] }
      = .ok (.enc 1 2 #v[3, 4, 5, 6, 7, 8]) := by decide
theorem test_decode_vfy :
    decode none { word := 0b0011000000000000, seq := [] } = .ok (.vfy []) := by decide
theorem test_decode_clr :
    decode none { word := 0b0100000000000000, seq := [] } = .ok .clr := by decide
theorem test_decode_rxb :
    decode none { word := 0b0101000010101010, seq := [] } = .ok (.rxb 0xAA) := by decide
theorem test_decode_abt :
    decode none { word := 0b0110000000000000, seq := [] } = .ok .abt := by decide
theorem test_decode_can :
    decode none { word := 0b0111000000000000, seq := [] } = .ok .can := by decide
theorem test_decode_decU16 :
    decode none { word := 0b1000000000000110, seq := [9] } = .ok (.decU16 6 [9]) := by decide
theorem test_decode_decI16 :
    decode none { word := 0b1000000100000001, seq := [9] } = .ok (.decI16 1 [9]) := by decide
theorem test_decode_decU32 :
    decode none { word := 0b1000001011111111, seq := [9] } = .ok (.decU32 255 [9]) := by decide
theorem test_decode_decF32 :
    decode none { word := 0b1000001100000010, seq := [9] } = .ok (.decF32 2 [9]) := by decide
theorem test_decode_rdst :
    decode none { word := 0b1001000000000000, seq := [] } = .ok .rdst := by decide
theorem test_decode_rdrx :
    decode none { word := 0b1010000000000011, seq := [] } = .ok (.rdrx 3) := by decide
theorem test_decode_rdfr :
    decode none { word := 0b1011000000000000, seq := [] } = .ok .rdfr := by decide
theorem test_decode_rdtx :
    decode none { word := 0b1100000000001010, seq := [] } = .ok (.rdtx 10) := by decide

/-- The table of illegal requests of 95_test_vectors.md, each refused under its condition's
name. -/
theorem test_decode_illegal :
    decode none { word := 0x0000, seq := [] } = .error .reservedOp ∧
    decode none { word := 0xD000, seq := [] } = .error .reservedOp ∧
    decode none { word := 0xE000, seq := [] } = .error .reservedOp ∧
    decode none { word := 0xF0FF, seq := [] } = .error .reservedOp ∧
    decode none { word := 0x8400, seq := [1, 2] } = .error .reservedFn ∧
    decode none { word := 0x8F00, seq := [] } = .error .reservedFn ∧
    decode none { word := 0x4100, seq := [] } = .error .fnNotZero ∧
    decode none { word := 0xA100, seq := [] } = .error .fnNotZero ∧
    decode none { word := 0x4001, seq := [] } = .error .immNotZero ∧
    decode none { word := 0x3001, seq := [] } = .error .immNotZero ∧
    decode none { word := 0x5000, seq := [1] } = .error .wrongCount ∧
    decode none { word := 0x9000, seq := [0] } = .error .wrongCount ∧
    decode none { word := 0x2000, seq := [1, 1, 1, 1, 1, 1, 1] } = .error .wrongCount ∧
    decode none { word := 0x2000, seq := [1, 1, 1, 1, 1, 1, 1, 1, 1] } = .error .wrongCount ∧
    decode (some 2) { word := 0x1000, seq := [1, 2, 3] } = .error .seqTooLong := by decide

/-- Rows of spec/opcode_table.json, read as the host gives them. -/
theorem test_table_words :
    decodeTableWord 16 0x1000 = some (.crc []) ∧
    decodeTableWord 16 0x2000 = some (.enc 0 0 #v[0, 0, 0, 0, 0, 0]) ∧
    decodeTableWord 16 0x50FF = some (.rxb 0xFF) ∧
    decodeTableWord 16 0x8301 = some (.decF32 1 []) ∧
    decodeTableWord 16 0xD000 = none ∧
    (nextOf (step (State.reset.withFetchWord 16 0x9000))).map (·.responses)
      = some [{ st := .ok, statv := some 0x00 }] := by decide

/-- R72: one written form without operand bytes, and S8's expansion of `ENCM 2, 1, 1`. -/
theorem test_written_forms :
    textOf (.rdrx 3) = "RDRX 3" ∧
    expandEncm 2 1 true = [.enc 0x02 0x3B #v[1, 1, 0, 0, 0, 0]] := by decide

/-! ### The codec -/

/-- V-CRC-5, and V-CRC-1 (the empty sequence). -/
theorem test_crc :
    answer (stateWith Block.reset 0x1000 [0x31, 0x32, 0x33, 0x34, 0x35, 0x36, 0x37, 0x38, 0x39])
      = some { st := .ok, crc := some 0x906E } ∧
    answer (stateWith Block.reset 0x1000 []) = some { st := .ok, crc := some 0x0000 } := by decide +kernel

/-- V-ENC-1. -/
theorem test_enc :
    blockAfter (stateWith Block.reset 0x2000 [0x02, 0x3B, 0x01, 0x01, 0x00, 0x00, 0x00, 0x00])
      = some encoded := by decide +kernel

/-- V-VFY-1. -/
theorem test_vfy_ok :
    answer (stateWith Block.reset 0x3000 [0x00, 0x00, 0x43, 0x66, 0x00, 0x00, 0x61, 0x17])
      = some { st := .ok, crc := some 0x1761, rcv := some 0x1761,
               frame := some [0x00, 0x00, 0x43, 0x66, 0x00, 0x00, 0x61, 0x17] } := by decide +kernel

/-- V-VFY-4 and V-VFY-7. -/
theorem test_vfy_errors :
    answer (stateWith Block.reset 0x3000 [0x00, 0x00, 0x43, 0x66, 0x00, 0x00, 0x17, 0x61])
      = some { st := .crcError, crc := some 0x1761, rcv := some 0x6117 } ∧
    answer (stateWith Block.reset 0x3000 [0x00, 0x00, 0x43, 0x66, 0x00, 0x00, 0x61, 0x17, 0x00])
      = some { st := .lengthError } := by decide +kernel

/-! ### The decoders -/

/-- V-DEC-23 and V-DEC-24. -/
theorem test_decU16 :
    answer (stateWith verified 0x8006 [0x00, 0x00, 0x43, 0x66, 0x00, 0x00, 0x61, 0x17])
      = some { st := .ok, val := some 0x6117, short := some false } ∧
    answer (stateWith verified 0x8007 [0x00, 0x00, 0x43, 0x66, 0x00, 0x00, 0x61, 0x17])
      = some { st := .ok, val := some 0, short := some true } := by decide

/-- V-DEC-6, V-DEC-7 and V-DEC-13. -/
theorem test_decI16 :
    answer (stateWith Block.reset 0x8100 [0x80, 0x00])
      = some { st := .ok, val := some 0xFFFF8000, short := some false } ∧
    answer (stateWith Block.reset 0x8100 [0x7F, 0xFF])
      = some { st := .ok, val := some 0x00007FFF, short := some false } ∧
    answer (stateWith Block.reset 0x8101 [0x00, 0xFF])
      = some { st := .ok, val := some 0, short := some true } := by decide

/-- V-DEC-9 and V-DEC-10. -/
theorem test_decU32 :
    answer (stateWith Block.reset 0x8202 [0x00, 0x00, 0xDB, 0x12, 0x34, 0x56])
      = some { st := .ok, val := some 0xDB123456, short := some false } ∧
    answer (stateWith Block.reset 0x8203 [0x00, 0x00, 0xDB, 0x12, 0x34, 0x56])
      = some { st := .ok, val := some 0, short := some true } := by decide

/-- V-DEC-15 (a NaN in the data passes through). -/
theorem test_decF32 :
    answer (stateWith Block.reset 0x8300 [0x7F, 0xC0, 0x00, 0x01])
      = some { st := .ok, val := some 0x7FC00001, short := some false } := by decide

/-- R100: short input answers the instance's own `F32_SENTINEL`. -/
theorem test_decF32_short :
    answer { State.reset with
      cfg := { f32Sentinel := 0xFFC12345, seqMax := none },
      inputs := [.request { word := 0x8305, seq := [0x00, 0x00, 0x43, 0x66, 0x00, 0x00] }] }
      = some { st := .ok, val := some 0xFFC12345, short := some true } := by decide

/-- R110 on 230.0 (V-DEC-14), R114 on the default sentinel, and R15 at -32768. -/
theorem test_readings :
    f32Sign 0x43660000 = 0 ∧ f32Exponent 0x43660000 = 0x86 ∧ f32Fraction 0x43660000 = 0x660000 ∧
    f32IsNaN Config.default.f32Sentinel = true ∧ f32IsNaN 0x7F800000 = false ∧
    int16 0x8000 = -32768 ∧ int16 0x7FFF = 32767 := by decide

/-! ### The assembler -/

/-- V-ASM-14. -/
theorem test_clr :
    let s := stateWith (blockWith .done .crcError [0, 0, 0x43, 0x67, 0, 0, 0x61, 0x17]) 0x4000 []
    answer s = some { st := .ok, statv := some 0x01 } ∧
    blockAfter s = some { Block.reset with asm := .assembling } := by decide

/-- V-ASM-5 and V-ASM-6: the eighth byte. -/
theorem test_rxb_eighth :
    answer (stateWith seven 0x5017 [])
      = some { st := .ok, acc := some true, statv := some 0x86 } ∧
    blockAfter (stateWith seven 0x5017 []) = some verified ∧
    answer (stateWith (blockWith .assembling .none [0, 0, 0x43, 0x67, 0, 0, 0x61]) 0x5017 [])
      = some { st := .ok, acc := some true, statv := some 0x8A } := by decide +kernel

/-- V-ASM-4, and V-ASM-2 and V-ASM-7: stored, and dropped. -/
theorem test_rxb_stored_or_dropped :
    answer (stateWith (blockWith .assembling .none [0x00, 0x00, 0x43]) 0x5066 [])
      = some { st := .ok, acc := some true, statv := some 0x41 } ∧
    answer (stateWith Block.reset 0x5055 [])
      = some { st := .ok, acc := some false, statv := some 0x00 } ∧
    blockAfter (stateWith verified 0x50AA []) = some verified := by decide

/-- V-ASM-9 and V-ASM-10. -/
theorem test_abt :
    answer (stateWith (blockWith .assembling .none []) 0x6000 [])
      = some { st := .ok, acc := some true, statv := some 0x0E } ∧
    answer (stateWith verified 0x6000 [])
      = some { st := .ok, acc := some false, statv := some 0x86 } := by decide

/-- V-ASM-13. -/
theorem test_can :
    answer (stateWith verified 0x7000 []) = some { st := .ok, statv := some 0x80 } ∧
    blockAfter (stateWith verified 0x7000 [])
      = some { verified with asm := .idle, res := .none } := by decide

/-! ### The reads -/

/-- R172's worked example. -/
theorem test_rdst :
    answer (stateWith verified 0x9000 []) = some { st := .ok, statv := some 0x86 } := by decide

/-- V-ASM-18 and V-ASM-19. -/
theorem test_rdrx :
    answer (stateWith (blockWith .assembling .none [0x00, 0x00, 0x43, 0x66]) 0xA003 [])
      = some { st := .ok, byte := some 0x66 } ∧
    answer (stateWith (blockWith .assembling .none [0x00, 0x00, 0x43, 0x66]) 0xA004 [])
      = some { st := .badIndex } := by decide

/-- V-ASM-15 and V-ASM-17. -/
theorem test_rdfr :
    answer (stateWith verified 0xB000 [])
      = some { st := .ok, frame := some [0x00, 0x00, 0x43, 0x66, 0x00, 0x00, 0x61, 0x17] } ∧
    answer (stateWith { verified with asm := .idle, res := .none } 0xB000 [])
      = some { st := .notReady } := by decide

/-- V-ASM-22 (`NOT_READY` first), V-ASM-23, and `RDTX 10`. -/
theorem test_rdtx :
    answer (stateWith Block.reset 0xC00A []) = some { st := .notReady } ∧
    answer (stateWith encoded 0xC009 []) = some { st := .ok, byte := some 0x27 } ∧
    answer (stateWith encoded 0xC00A []) = some { st := .badIndex } := by decide

/-! ### Witnesses: the hypotheses of each statement are met -/

theorem test_witness_DecodeOfEncodeIsInstruction :
    (Instr.crc [1, 2]).wf (some 2) = true ∧ (Instr.rdtx 0xFF).wf (some 0) = true := by decide

theorem test_witness_DecodableRequestIsItsEncoding :
    decode (some 2) { word := 0x83FF, seq := [1, 2] } = .ok (.decF32 0xFF [1, 2]) := by decide

/-- One request for each condition of R69, at its boundary, and a legal one at the bound. -/
theorem test_witness_IllegalRequestsWriteNothing :
    IllegalByNumbers none 0x0FFF [] ∧ IllegalByNumbers none 0x8400 [] ∧
    IllegalByNumbers none 0x7100 [] ∧ IllegalByNumbers none 0x1001 [] ∧
    IllegalByNumbers none 0x2000 [1, 2, 3, 4, 5, 6, 7] ∧ IllegalByNumbers none 0xC000 [1] ∧
    IllegalByNumbers (some 2) 0x8000 [1, 2, 3] ∧ ¬ IllegalByNumbers (some 2) 0x8300 [1, 2] ∧
    (stateWith Block.reset 0x8300 [1, 2]).inputs
      = .request { word := 0x8300, seq := [1, 2] } :: [] := by
  refine ⟨?_, ?_, ?_, ?_, ?_, ?_, ?_, ?_, rfl⟩ <;> simp [IllegalByNumbers]

theorem test_witness_StepRunsDecodedRequest :
    (stateWith seven 0x5017 []).inputs = .request { word := 0x5017, seq := [] } :: [] ∧
    decode (stateWith seven 0x5017 []).cfg.seqMax { word := 0x5017, seq := [] }
      = .ok (.rxb 0x17) := by decide

theorem test_witness_IdleStepHoldsState : State.reset.inputs = [] := rfl

theorem test_witness_ResetEventRestoresBlock :
    ({ State.reset with block := verified, inputs := [.reset] } : State).inputs
      = .reset :: [] := rfl

/-- A state that meets R23 for each clause: a request, nothing, a reset event. -/
theorem test_witness_EveryStepAnswersOnce :
    verified.Inv ∧
    (stateWith verified 0xB000 []).inputs = .request { word := 0xB000, seq := [] } :: [] ∧
    ({ State.reset with block := verified } : State).inputs = [] ∧
    ({ State.reset with block := verified, inputs := [.reset] } : State).inputs
      = .reset :: [] := by decide

theorem test_witness_StepKeepsStateInvariants :
    (stateWith seven 0x5017 []).block.Inv ∧
    (nextOf (step (stateWith seven 0x5017 []))).isSome = true := by decide +kernel

theorem test_witness_StepKeepsVerdictTrue :
    verified.Inv ∧ verified.VerdictHolds ∧
    (nextOf (step (stateWith verified 0x4000 []))).isSome = true := by decide +kernel

theorem test_witness_StepKeepsTxFrameValid :
    (∀ f ∈ encoded.txbuf, outboundValid f) ∧ encoded.txbuf.isSome = true ∧
    (nextOf (step (stateWith encoded 0x4000 []))).isSome = true := by
  refine ⟨?_, by decide, by decide⟩
  intro f hf
  cases hf
  decide +kernel

/-- Both clauses of the two 2-byte decoders, where they meet. -/
theorem test_witness_DecU16ReadsBigEndian :
    (7#8).toNat + 2 > [0, 0, 0x43, 0x66, 0, 0, 0x61, 0x17].length ∧
    ([0, 0, 0x43, 0x66, 0, 0, 0x61, 0x17] : List Byte)[(6#8).toNat]? = some 0x61 ∧
    ([0, 0, 0x43, 0x66, 0, 0, 0x61, 0x17] : List Byte)[(6#8).toNat + 1]? = some 0x17 := by decide

theorem test_witness_DecI16ReadsSigned :
    (1#8).toNat + 2 > [0, 0xFF].length ∧
    ([0x80, 0x00] : List Byte)[(0#8).toNat]? = some 0x80 ∧
    ([0x80, 0x00] : List Byte)[(0#8).toNat + 1]? = some 0x00 := by decide

/-- Both clauses of the two 4-byte decoders, where they meet. -/
theorem test_witness_DecU32ReadsBigEndian :
    (3#8).toNat + 4 > [0, 0, 0xDB, 0x12, 0x34, 0x56].length ∧
    ([0, 0, 0xDB, 0x12, 0x34, 0x56] : List Byte)[(2#8).toNat]? = some 0xDB ∧
    ([0, 0, 0xDB, 0x12, 0x34, 0x56] : List Byte)[(2#8).toNat + 1]? = some 0x12 ∧
    ([0, 0, 0xDB, 0x12, 0x34, 0x56] : List Byte)[(2#8).toNat + 2]? = some 0x34 ∧
    ([0, 0, 0xDB, 0x12, 0x34, 0x56] : List Byte)[(2#8).toNat + 3]? = some 0x56 := by decide

theorem test_witness_DecF32ReadsPattern :
    (255#8).toNat + 4 > ([] : List Byte).length ∧
    ([0x43, 0x66, 0, 0] : List Byte)[(0#8).toNat]? = some 0x43 ∧
    ([0x43, 0x66, 0, 0] : List Byte)[(0#8).toNat + 1]? = some 0x66 ∧
    ([0x43, 0x66, 0, 0] : List Byte)[(0#8).toNat + 2]? = some 0 ∧
    ([0x43, 0x66, 0, 0] : List Byte)[(0#8).toNat + 3]? = some 0 := by decide

theorem test_witness_DecReadsOnlyItsSlice :
    1 + decWidth .u32 ≤ ([9, 1, 2, 3, 4] : List Byte).length ∧
    1 + decWidth .u32 ≤ ([8, 1, 2, 3, 4, 7] : List Byte).length ∧
    (([9, 1, 2, 3, 4] : List Byte).drop 1).take (decWidth .u32)
      = (([8, 1, 2, 3, 4, 7] : List Byte).drop 1).take (decWidth .u32) := by decide

theorem test_witness_WideReadIsTwoNarrowReads :
    1 + 4 ≤ ([9, 1, 2, 3, 4] : List Byte).length := by decide

theorem test_witness_CrcIsAffine :
    ([1, 2] : List Byte).length = ([3, 4] : List Byte).length := rfl

/-- V-CRC-13's frame. -/
theorem test_witness_CrcOfWholeFrameIsConstant :
    ([0, 0, 0x43, 0x66, 0, 0, 0x61, 0x17] : List Byte).length = 8 ∧
    crc16 (([0, 0, 0x43, 0x66, 0, 0, 0x61, 0x17] : List Byte).take 6)
      = le16 [0, 0, 0x43, 0x66, 0, 0, 0x61, 0x17] 6 := by decide +kernel

/-- Both clauses of VFY: seven bytes, and eight. -/
theorem test_witness_VfyAnswersVerdict :
    ([0, 0, 0x43, 0x66, 0, 0, 0x61] : List Byte).length ≠ 8 ∧
    ([0, 0, 0x43, 0x66, 0, 0, 0x61, 0x17] : List Byte).length = 8 ∧
    ([0, 0, 0x43, 0x66, 0, 0, 0x61, 0x17] : List Byte)[6]? = some 0x61 ∧
    ([0, 0, 0x43, 0x66, 0, 0, 0x61, 0x17] : List Byte)[7]? = some 0x17 := by decide

theorem test_witness_VfyAcceptsAppendedCrc :
    ([0, 0, 0x43, 0x66, 0, 0] : List Byte).length = 6 := rfl

/-- A valid frame, and the lowest and highest bits. -/
theorem test_witness_VfyRefusesOneAndTwoBitErrors :
    frameValid [0, 0, 0x43, 0x66, 0, 0, 0x61, 0x17] = true ∧ (0 < 64 ∧ 63 < 64 ∧ 0 ≠ 63) := by
  decide +kernel

/-- The three clauses of RXB: dropped, the seventh byte, the eighth. -/
theorem test_witness_RxbStoresOrDrops :
    (verified.Inv ∧ verified.asm ≠ .assembling) ∧
    ((blockWith .assembling .none [1, 2, 3, 4, 5, 6]).Inv ∧
      (blockWith .assembling .none [1, 2, 3, 4, 5, 6]).rxcnt.val < 7 ∧
      (blockWith .assembling .none [1, 2, 3, 4, 5, 6]).asm = .assembling) ∧
    (seven.Inv ∧ seven.rxcnt.val = 7 ∧ seven.asm = .assembling ∧
      seven.rxbuf.toList.take 7
        = ([0x00, 0x00, 0x43, 0x66, 0x00, 0x00, 0x61] : List Byte).map some) :=
  ⟨by decide, by decide, by decide⟩

theorem test_witness_AbtEndsAttemptAsLengthError :
    ((blockWith .assembling .none []).Inv ∧ (blockWith .assembling .none []).asm = .assembling) ∧
    (verified.Inv ∧ verified.asm ≠ .assembling) := by decide

/-- Both clauses of RDRX, where they meet. -/
theorem test_witness_RdrxReadsStoredByte :
    verified.Inv ∧ (7#8).toNat < verified.rxcnt.val ∧ verified.rxcnt.val ≤ (8#8).toNat := by decide

/-- The clauses of RDFR, and an instruction that leaves the frame readable. -/
theorem test_witness_RdfrReadsVerifiedFrame :
    (verified.Inv ∧ verified.asm = .done ∧ verified.res = .ok) ∧
    (seven.Inv ∧ seven.asm ≠ .done) ∧
    (Instr.rxb 0 ≠ .clr ∧ Instr.rxb 0 ≠ .can ∧
      (nextOf (exec (.rxb 0) (stateWith verified 0 []))).isSome = true) := by decide

/-- The clauses of RDTX, where they meet. -/
theorem test_witness_RdtxReadsFrameByte :
    Block.reset.txbuf = none ∧
    (encoded.txbuf.map (fun f => decide (10 ≤ (10#8).toNat) && f.toList[(9#8).toNat]? == some 0x27)
      = some true) ∧
    (nextOf (exec .clr (stateWith encoded 0 []))).isSome = true := by decide

theorem test_witness_ReadOnlyRequestsRepeat :
    readsOnly (.rdrx 7) = true ∧
    (nextOf (exec (.rdrx 7) (stateWith verified 0 []))).isSome = true := by decide

/-- RXB changes a cell, CLR empties one, ENC writes `TXBUF`. -/
theorem test_witness_BuffersHaveOneWriter :
    (nextOf (exec (.rxb 1) (stateWith seven 0 []))).map (·.block.rxbuf[7]) = some (some 1) ∧
    seven.rxbuf[7] = none ∧
    (nextOf (exec .clr (stateWith seven 0 []))).map (·.block.rxbuf[0]) = some none ∧
    seven.rxbuf[0] = some 0 ∧
    (nextOf (exec (.enc 0 0 #v[0, 0, 0, 0, 0, 0]) (stateWith seven 0 []))).map
      (·.block.txbuf.isSome) = some true := by decide

theorem test_witness_CountAdvancesByOne :
    (nextOf (exec (.rxb 1) (stateWith seven 0 []))).map (·.block.rxcnt) = some 8 ∧
    seven.rxcnt = 7 ∧
    (nextOf (exec .clr (stateWith seven 0 []))).map (·.block.rxcnt) = some 0 := by decide

theorem test_witness_PhaseChangesOnlyAsListed :
    (nextOf (exec (.rxb 1) (stateWith seven 0 []))).map (·.block.asm) = some .done ∧
    (nextOf (exec .abt (stateWith seven 0 []))).map (·.block.asm) = some .done ∧
    (nextOf (exec .can (stateWith seven 0 []))).map (·.block.asm) = some .idle ∧
    (nextOf (exec .clr (stateWith verified 0 []))).map (·.block.asm) = some .assembling := by decide

theorem test_witness_CodecAnswersIgnoreBlock :
    statesNothing (.decF32 0 []) = true ∧
    (stateWith seven 0 []).cfg = (stateWith verified 0 []).cfg := by decide

theorem test_witness_RdfrHandsOutOnlyValidFrames :
    verified.VerdictHolds ∧
    (nextOf (exec .rdfr (stateWith verified 0 []))).map (·.responses)
      = some ([] ++ [{ st := .ok, frame := some [0, 0, 0x43, 0x66, 0, 0, 0x61, 0x17] }]) := by
  decide +kernel

/-- No byte, and all eight. -/
theorem test_witness_EighthByteEndsTheAttempt :
    ([] : List Byte).length ≤ 8 ∧ ([1, 2, 3, 4, 5, 6, 7, 8] : List Byte).length ≤ 8 ∧
    (stateWith verified 0x4000 []).inputs = .request (encode .clr) ::
      (([] : List Byte).map (fun b => Input.request (encode (.rxb b))) ++ []) := by decide

theorem test_witness_IssueOrderDecidesDeadline :
    seven.Inv ∧ seven.asm = .assembling ∧ seven.rxcnt.val = 7 ∧
    seven.rxbuf.toList.take 7
      = ([0x00, 0x00, 0x43, 0x66, 0x00, 0x00, 0x61] : List Byte).map some := by decide

/-- A state for each clause. -/
theorem test_witness_ExcludedStatesStopByName :
    ({ seven with rxcnt := 8 } : Block).asm = .assembling ∧
    ({ Block.reset with asm := .assembling, rxcnt := 7 } : Block).rxbuf[(0 : Fin 7).val] = none ∧
    ((7#8).toNat < ({ Block.reset with rxcnt := 8 } : Block).rxcnt.val ∧
      Block.reset.rxbuf[(7#8).toNat]? = some none) ∧
    ({ Block.reset with asm := .done, res := .ok } : Block).rxbuf[(0 : Fin 8).val] = none := by
  decide

end Sys2Proof.Tests
end

section
/-! Proofs for the request encoding (30_encoding.md R64 to R73). The fields of a word in numbers,
what the decoder accepts, then the statements about illegal requests and pseudo-operations. -/

namespace Sys2Proof

/-! ### The fields of a request word in numbers (R64) -/

theorem opOf_toNat (w : U16) : (opOf w).toNat = w.toNat / 4096 := by
  have hw := w.isLt
  simp only [opOf, BitVec.extractLsb'_toNat, Nat.shiftRight_eq_div_pow]
  omega

theorem fnOf_toNat (w : U16) : (fnOf w).toNat = w.toNat / 256 % 16 := by
  simp only [fnOf, BitVec.extractLsb'_toNat, Nat.shiftRight_eq_div_pow]

theorem immOf_toNat (w : U16) : (immOf w).toNat = w.toNat % 256 := by
  simp only [immOf, BitVec.extractLsb'_toNat, Nat.shiftRight_zero]

theorem opOf_eq_iff (w : U16) (k : BitVec 4) : opOf w = k ↔ w.toNat / 4096 = k.toNat := by
  rw [← opOf_toNat, BitVec.toNat_inj]

theorem fnOf_eq_iff (w : U16) (k : BitVec 4) : fnOf w = k ↔ w.toNat / 256 % 16 = k.toNat := by
  rw [← fnOf_toNat, BitVec.toNat_inj]

theorem lt_fnOf_iff (w : U16) (k : BitVec 4) : k < fnOf w ↔ k.toNat < w.toNat / 256 % 16 := by
  rw [← fnOf_toNat, BitVec.lt_def]

theorem immOf_eq_iff (w : U16) (k : Byte) : immOf w = k ↔ w.toNat % 256 = k.toNat := by
  rw [← immOf_toNat, BitVec.toNat_inj]

/-- The immediate is the low byte of a word whose other bits are those of `OP` and `FN`. -/
theorem mkWord_eq_or (op fn : BitVec 4) (imm : Byte) :
    mkWord op fn imm = mkWord op fn 0 ||| imm.setWidth 16 := by
  apply BitVec.eq_of_getLsbD_eq
  intro k hk
  simp only [mkWord, BitVec.getLsbD_or, BitVec.getLsbD_append, BitVec.getLsbD_setWidth]
  by_cases h8 : k < 8
  · simp [h8, hk]
  · simp [h8, BitVec.getLsbD_of_ge imm k (by omega)]

/-! ### What the decoder accepts (R67, R69) -/

/-- R67's column `|S|`. -/
theorem requiredCount_eq_some (op : BitVec 4) (n : Nat) :
    requiredCount op = some n ↔
      (op = 0x2 ∧ n = 8) ∨
      ((op = 0x4 ∨ op = 0x5 ∨ op = 0x6 ∨ op = 0x7 ∨ op = 0x9 ∨ op = 0xA ∨ op = 0xB ∨ op = 0xC) ∧
        n = 0) := by
  rcases opcode_cases op with
    rfl | rfl | rfl | rfl | rfl | rfl | rfl | rfl | rfl | rfl | rfl | rfl | rfl | rfl | rfl | rfl <;>
  simp [requiredCount, eq_comm]

theorem exceedsSeqMax_iff (m : Option Nat) (xs : List Byte) :
    exceedsSeqMax m xs = true ↔ ∃ k ∈ m, xs.length > k := by
  cases m <;> simp [exceedsSeqMax]

theorem readEnc_of_length {xs : List Byte} (h : xs.length = 8) : ∃ i, readEnc xs = .ok i := by
  match xs, h with
  | [_, _, _, _, _, _, _, _], _ => exact ⟨_, rfl⟩

theorem readDec_of_le {fn : BitVec 4} (h : ¬ 3 < fn) (o : Byte) (xs : List Byte) :
    ∃ i, readDec fn o xs = .ok i := by
  have hfn : fn = 0 ∨ fn = 1 ∨ fn = 2 ∨ fn = 3 := by
    revert fn
    decide
  rcases hfn with rfl | rfl | rfl | rfl <;> exact ⟨_, rfl⟩

/-- The operation map reads every request whose code is not reserved, whose kind is one of
R68's four under DEC, and which has ENC's eight operands under ENC. -/
theorem readOp_of_legal {op fn : BitVec 4} (imm : Byte) {xs : List Byte}
    (hop : ¬(op = 0x0 ∨ op = 0xD ∨ op = 0xE ∨ op = 0xF)) (hdec : op = 0x8 → ¬ 3 < fn)
    (henc : op = 0x2 → xs.length = 8) : ∃ i, readOp op fn imm xs = .ok i := by
  by_cases h2 : op = 0x2
  · subst h2
    exact readEnc_of_length (henc rfl)
  by_cases h8 : op = 0x8
  · subst h8
    exact readDec_of_le (hdec rfl) imm xs
  have rest : op = 0x1 ∨ op = 0x3 ∨ op = 0x4 ∨ op = 0x5 ∨ op = 0x6 ∨ op = 0x7 ∨ op = 0x9 ∨
      op = 0xA ∨ op = 0xB ∨ op = 0xC := by
    rw [not_or, not_or, not_or] at hop
    simpa only [h2, h8, hop, false_or, or_false] using opcode_cases op
  rcases rest with rfl | rfl | rfl | rfl | rfl | rfl | rfl | rfl | rfl | rfl <;> exact ⟨_, rfl⟩

/-- A request of the operand count R67 requires, as the two cases of R69 item 5. -/
theorem requiredCount_met_iff (op : BitVec 4) (l : Nat) :
    (∀ n, requiredCount op = some n → l = n) ↔
      ¬(op = 0x2 ∧ l ≠ 8) ∧
      ¬((op = 0x4 ∨ op = 0x5 ∨ op = 0x6 ∨ op = 0x7 ∨ op = 0x9 ∨ op = 0xA ∨ op = 0xB ∨ op = 0xC) ∧
        l ≠ 0) := by
  simp [requiredCount_eq_some, or_imp, forall_and]

theorem decode_of_illegality_none {m : Option Nat} {r : Request} (h : illegality m r = none) :
    ∃ i, decode m r = .ok i := by
  obtain ⟨hop, hdec, -, -, hcount, -⟩ := (illegality_eq_none m r).1 h
  have read : ∃ i, readOp (opOf r.word) (fnOf r.word) (immOf r.word) r.seq = .ok i :=
    readOp_of_legal _ hop (fun h8 hfn => hdec ⟨h8, hfn⟩)
      fun h2 => hcount 8 ((requiredCount_eq_some _ _).2 (.inl ⟨h2, rfl⟩))
  simpa only [decode, h] using read

theorem decode_of_illegality_some {m : Option Nat} {r : Request} {e : Illegal}
    (h : illegality m r = some e) : decode m r = .error e := by
  simp only [decode, h]

end Sys2Proof

namespace Sys2Proof.Machine

/-- The decoder's check is R69's six conditions in numbers. -/
theorem illegality_eq_none_iff_not_illegalByNumbers (m : Option Nat) (w : U16) (xs : List Byte) :
    illegality m { word := w, seq := xs } = none ↔ ¬ IllegalByNumbers m w xs := by
  rw [illegality_eq_none]
  simp [IllegalByNumbers, requiredCount_met_iff, exceedsSeqMax_iff, opOf_eq_iff, fnOf_eq_iff,
    lt_fnOf_iff, immOf_eq_iff, not_or, and_assoc]

/-- An illegal request at the head of the host's inputs is taken off and refused (R202). -/
theorem step_of_decode_error {s : State} {r : Request} {rest : List Input} {e : Illegal}
    (hs : s.inputs = .request r :: rest) (hd : decode s.cfg.seqMax r = .error e) :
    step s = .next (State.refuseIllegal { s with inputs := rest }) := by
  simp only [step, State.nextInput, hs, hd]

/-- Settles O3: the decoder refuses exactly the requests R69 numbers, and the step answers what
the decoder refuses with `ILLEGAL`. -/
theorem illegalRequestsWriteNothing : Obligations.IllegalRequestsWriteNothing := by
  intro s w xs rest hs
  have legal := illegality_eq_none_iff_not_illegalByNumbers s.cfg.seqMax w xs
  constructor
  · intro hbad
    obtain ⟨e, he⟩ := Option.ne_none_iff_exists'.1 fun h => legal.1 h hbad
    exact step_of_decode_error hs (decode_of_illegality_some he)
  · exact fun hgood => decode_of_illegality_none (legal.2 hgood)

/-! ### The pseudo-operations (R73) -/

/-- `RXB b` is the word `0x5000 | b` with no operands (R72). -/
theorem encode_rxb (b : Byte) :
    encode (.rxb b) = { word := 0x5000#16 ||| b.setWidth 16, seq := [] } :=
  congrArg (Request.mk · []) (mkWord_eq_or 0x5 0x0 b)

/-- ENC is the word `0x2000` with its eight operand bytes in order (R72). -/
theorem encode_enc (a c p0 p1 p2 p3 p4 p5 : Byte) :
    encode (.enc a c #v[p0, p1, p2, p3, p4, p5])
      = { word := 0x2000, seq := [a, c, p0, p1, p2, p3, p4, p5] } := rfl

/-- Settles O5: the expansions are RXB and ENC requests, encoded as R72 writes them. -/
theorem pseudoOperationsExpand : Obligations.PseudoOperationsExpand := by
  refine ⟨fun bs => ?rxn, fun a mt g => ?encm, fun a c => ?encz, fun a c sel => ?encs⟩
  case rxn => simp only [expandRxn, List.map_map, Function.comp_def, encode_rxb]
  case encm => cases g <;> simp [expandEncm, encode_enc]
  case encz => simp [expandEncz, encode_enc]
  case encs => simp [expandEncs, encode_enc]

end Sys2Proof.Machine
end

section
/-! Proofs for the decoders (40_decoders.md R100 to R114). Multi-byte reads in numbers, the two
branches of `dec`, what DEC answers, then the statements. -/

namespace Sys2Proof.Machine

/-! ### Multi-byte reads in numbers (R14, R15) -/

/-- The bitwise or of a multiple of `2 ^ k` and a value below `2 ^ k` is their sum. -/
theorem toNat_or_of_dvd_of_lt {w k : Nat} {x y : BitVec w} (hx : 2 ^ k ∣ x.toNat)
    (hy : y.toNat < 2 ^ k) : (x ||| y).toNat = x.toNat + y.toNat := by
  obtain ⟨q, hq⟩ := hx
  rw [BitVec.toNat_or, hq, Nat.two_pow_add_eq_or_of_lt hy]

/-- A byte placed `k` bits up in a word with room for it. -/
theorem toNat_setWidth_shiftLeft (a : Byte) {w k : Nat} (h : 8 + k ≤ w) :
    (a.setWidth w <<< k).toNat = 2 ^ k * a.toNat := by
  have room : 2 ^ k * a.toNat < 2 ^ w := calc
    2 ^ k * a.toNat < 2 ^ k * 2 ^ 8 := Nat.mul_lt_mul_of_pos_left a.isLt (Nat.two_pow_pos k)
    _ = 2 ^ (8 + k) := by rw [← Nat.pow_add, Nat.add_comm]
    _ ≤ 2 ^ w := Nat.pow_le_pow_right (by decide) h
  rw [BitVec.toNat_shiftLeft, BitVec.toNat_setWidth_of_le (by omega), Nat.shiftLeft_eq,
    Nat.mul_comm, Nat.mod_eq_of_lt room]

theorem be16_toNat (xs : List Byte) (o : Nat) :
    (be16 xs o).toNat = 256 * (byteAt xs o).toNat + (byteAt xs (o + 1)).toNat := by
  have ha := toNat_setWidth_shiftLeft (byteAt xs o) (w := 16) (k := 8) (by decide)
  have hb := BitVec.toNat_setWidth_of_le (b := byteAt xs (o + 1)) (show 8 ≤ 16 by decide)
  have hlt := (byteAt xs (o + 1)).isLt
  rw [be16, toNat_or_of_dvd_of_lt (k := 8) (by omega) (by omega), ha, hb]
  omega

theorem be32_toNat (xs : List Byte) (o : Nat) :
    (be32 xs o).toNat = 16777216 * (byteAt xs o).toNat + 65536 * (byteAt xs (o + 1)).toNat +
      256 * (byteAt xs (o + 2)).toNat + (byteAt xs (o + 3)).toNat := by
  have ha := toNat_setWidth_shiftLeft (byteAt xs o) (w := 32) (k := 24) (by decide)
  have hb := toNat_setWidth_shiftLeft (byteAt xs (o + 1)) (w := 32) (k := 16) (by decide)
  have hc := toNat_setWidth_shiftLeft (byteAt xs (o + 2)) (w := 32) (k := 8) (by decide)
  have hd := BitVec.toNat_setWidth_of_le (b := byteAt xs (o + 3)) (show 8 ≤ 32 by decide)
  have hb' := (byteAt xs (o + 1)).isLt
  have hc' := (byteAt xs (o + 2)).isLt
  have hd' := (byteAt xs (o + 3)).isLt
  -- each or adds a field below every bit set so far
  have hab := (toNat_or_of_dvd_of_lt (k := 24) (by omega) (by omega)).trans
    (congrArg₂ (· + ·) ha hb)
  have habc := (toNat_or_of_dvd_of_lt (k := 16) (by omega) (by omega)).trans
    (congrArg₂ (· + ·) hab hc)
  rw [be32, toNat_or_of_dvd_of_lt (k := 8) (by omega) (by omega), habc, hd]
  omega

/-- R15's reading of a 16-bit pattern is the library's two's complement. -/
theorem int16_eq_toInt (v : U16) : int16 v = v.toInt := by
  rw [int16, BitVec.toInt_eq_toNat_cond]
  split <;> split <;> omega

/-- The low bits of a sign extension are the pattern extended. -/
theorem setWidth_signExtend_of_le {w v : Nat} (x : BitVec w) (h : w ≤ v) :
    (x.signExtend v).setWidth w = x := by
  apply BitVec.eq_of_getLsbD_eq
  intro k hk
  have hkv : k < v := by omega
  simp only [BitVec.getLsbD_setWidth, BitVec.getLsbD_signExtend, hk, hkv, decide_true,
    Bool.true_and, if_true]

theorem byteAt_of_getElem? {xs : List Byte} {i : Nat} {b : Byte} (h : xs[i]? = some b) :
    byteAt xs i = b := by
  rw [byteAt, List.getD_eq_getElem?_getD, h, Option.getD_some]

theorem be16_toNat_of_getElem? {xs : List Byte} {o : Nat} {a b : Byte} (ha : xs[o]? = some a)
    (hb : xs[o + 1]? = some b) : (be16 xs o).toNat = 256 * a.toNat + b.toNat := by
  rw [be16_toNat, byteAt_of_getElem? ha, byteAt_of_getElem? hb]

theorem be32_toNat_of_getElem? {xs : List Byte} {o : Nat} {a b c d : Byte} (ha : xs[o]? = some a)
    (hb : xs[o + 1]? = some b) (hc : xs[o + 2]? = some c) (hd : xs[o + 3]? = some d) :
    (be32 xs o).toNat = 16777216 * a.toNat + 65536 * b.toNat + 256 * c.toNat + d.toNat := by
  rw [be32_toNat, byteAt_of_getElem? ha, byteAt_of_getElem? hb, byteAt_of_getElem? hc,
    byteAt_of_getElem? hd]

/-! ### The two branches of `dec` (R100, R101) -/

theorem dec_of_short (cfg : Config) {k : DecKind} {xs : List Byte} {o : Nat}
    (h : o + decWidth k > xs.length) : dec cfg k xs o = (decSentinel cfg k, true) := if_pos h

theorem dec_of_enough (cfg : Config) {k : DecKind} {xs : List Byte} {o : Nat}
    (h : o + decWidth k ≤ xs.length) : dec cfg k xs o = (decValue xs o k, false) :=
  if_neg (Nat.not_lt.2 h)

/-- Where the slice's last byte is present, the whole slice is. -/
theorem dec_of_last_byte (cfg : Config) {k : DecKind} {xs : List Byte} {o : Nat} {b : Byte}
    (h : xs[o + (decWidth k - 1)]? = some b) : dec cfg k xs o = (decValue xs o k, false) := by
  obtain ⟨hlt, -⟩ := List.getElem?_eq_some_iff.1 h
  exact dec_of_enough cfg (by omega)

/-! ### What DEC answers (R104 to R112) -/

/-- DEC of any kind adds one response with `dec`'s pair, and changes nothing else. -/
theorem answerDec_eq (k : DecKind) (o : Byte) (xs : List Byte) (s : State) :
    answerDec k o xs s = .next { s with
      responses := s.responses ++
        [{ st := .ok
           val := some (dec s.cfg k xs o.toNat).1
           short := some (dec s.cfg k xs o.toNat).2 }] } := rfl

/-- Settles O14: past the end `dec` gives R100's sentinel 0, and otherwise `be16`. -/
theorem decU16ReadsBigEndian : Obligations.DecU16ReadsBigEndian := by
  intro o xs s
  refine ⟨congrArg (Request.mk · xs) (mkWord_eq_or 0x8 0x0 o), _, _, answerDec_eq .u16 o xs s,
    fun hshort => ?short, fun a b ha hb => ?full⟩
  case short =>
    rw [dec_of_short _ hshort]
    exact ⟨rfl, rfl⟩
  case full =>
    rw [dec_of_last_byte _ hb, decValue, BitVec.toNat_setWidth_of_le (by decide)]
    exact ⟨be16_toNat_of_getElem? ha hb, rfl⟩

/-- Settles O15: the sign extension of `be16` has `be16`'s own two's-complement value. -/
theorem decI16ReadsSigned : Obligations.DecI16ReadsSigned := by
  intro o xs s
  refine ⟨congrArg (Request.mk · xs) (mkWord_eq_or 0x8 0x1 o), _, _, answerDec_eq .i16 o xs s,
    fun hshort => ?short, fun a b ha hb => ?full⟩
  case short =>
    rw [dec_of_short _ hshort]
    exact ⟨rfl, rfl⟩
  case full =>
    have signed : (decValue xs o.toNat .i16).toInt = int16 (be16 xs o.toNat) := by
      rw [decValue, BitVec.toInt_signExtend_of_le (by decide), int16_eq_toInt]
    have low : (decValue xs o.toNat .i16).setWidth 16 = be16 xs o.toNat := by
      rw [decValue, setWidth_signExtend_of_le _ (by decide)]
    rw [dec_of_last_byte _ hb, low, signed, ← be16_toNat_of_getElem? ha hb]
    exact ⟨rfl, rfl, rfl⟩

/-- Settles O16: past the end `dec` gives R100's sentinel 0, and otherwise `be32`. -/
theorem decU32ReadsBigEndian : Obligations.DecU32ReadsBigEndian := by
  intro o xs s
  refine ⟨congrArg (Request.mk · xs) (mkWord_eq_or 0x8 0x2 o), _, _, answerDec_eq .u32 o xs s,
    fun hshort => ?short, fun a b c d ha hb hc hd => ?full⟩
  case short =>
    rw [dec_of_short _ hshort]
    exact ⟨rfl, rfl⟩
  case full =>
    rw [dec_of_last_byte _ hd]
    exact ⟨be32_toNat_of_getElem? ha hb hc hd, rfl⟩

/-- Settles O17: past the end `dec` gives the instance's own `F32_SENTINEL`, and otherwise
`be32`, which rewrites no pattern. -/
theorem decF32ReadsPattern : Obligations.DecF32ReadsPattern := by
  intro o xs s
  refine ⟨congrArg (Request.mk · xs) (mkWord_eq_or 0x8 0x3 o), _, _, answerDec_eq .f32 o xs s,
    fun hshort => ?short, fun a b c d ha hb hc hd => ?full⟩
  case short =>
    rw [dec_of_short _ hshort]
    exact ⟨rfl, rfl⟩
  case full =>
    rw [dec_of_last_byte _ hd]
    exact ⟨be32_toNat_of_getElem? ha hb hc hd, rfl⟩

end Sys2Proof.Machine
end

section
/-! Proofs for the frame codec (41_codec.md R120 to R135). The CRC as one fold over the bit
stream, a 16-bit word's two bytes in numbers, the outbound frame and the verdict, then the
statements. -/

namespace Sys2Proof.Machine

/-! ### The CRC as a fold over the bit stream (R120) -/

/-- The rounds on a byte shift in its low bits, least significant first. -/
theorem crcBits_eq_foldl (k : Nat) (r : U16) (b : Byte) :
    crcBits k r b = ((List.range k).map b.getLsbD).foldl shiftBit r := by
  induction k generalizing r b with
  | zero => rfl
  | succ k ih =>
    have tail : (b >>> 1).getLsbD = b.getLsbD ∘ Nat.succ := by
      funext i
      rw [BitVec.getLsbD_ushiftRight, Nat.add_comm, Function.comp_apply]
    rw [crcBits_succ, ih, tail, List.range_succ_eq_map, List.map_cons, List.map_map,
      List.foldl_cons]

theorem crcByte_eq_foldl (r : U16) (b : Byte) : crcByte r b = (bitsOf b).foldl shiftBit r :=
  crcBits_eq_foldl 8 r b

theorem crc16_eq_bitSerialCrc (xs : List Byte) : crc16 xs = bitSerialCrc xs := by
  simp only [crc16, bitSerialCrc, List.foldl_flatMap, ← crcByte_eq_foldl, crcInit]

/-! ### The two bytes of a word in numbers (R14) -/

theorem lo_toNat (v : U16) : (lo v).toNat = v.toNat % 256 := by
  simp only [lo, BitVec.extractLsb'_toNat, Nat.shiftRight_zero]

theorem hi_toNat (v : U16) : (hi v).toNat = v.toNat / 256 := by
  have hv := v.isLt
  simp only [hi, BitVec.extractLsb'_toNat, Nat.shiftRight_eq_div_pow]
  omega

theorem le16_toNat (xs : List Byte) (o : Nat) :
    (le16 xs o).toNat = (byteAt xs o).toNat + 256 * (byteAt xs (o + 1)).toNat := by
  have hl := BitVec.toNat_setWidth_of_le (b := byteAt xs o) (show 8 ≤ 16 by decide)
  have hh := toNat_setWidth_shiftLeft (byteAt xs (o + 1)) (w := 16) (k := 8) (by decide)
  have hlt := (byteAt xs o).isLt
  rw [le16, BitVec.or_comm, toNat_or_of_dvd_of_lt (k := 8) (by omega) (by omega), hl, hh]
  omega

theorem le16_toNat_of_getElem? {xs : List Byte} {o : Nat} {l h : Byte} (hl : xs[o]? = some l)
    (hh : xs[o + 1]? = some h) : (le16 xs o).toNat = l.toNat + 256 * h.toNat := by
  rw [le16_toNat, byteAt_of_getElem? hl, byteAt_of_getElem? hh]

/-! ### The outbound frame by parts (R130) -/

theorem outboundFrame_take (a c : Byte) (p : Vector Byte 6) :
    (outboundFrame a c p).toList.take 8 = a :: c :: p.toList := by
  simp

theorem outboundFrame_getElem_eight (a c : Byte) (p : Vector Byte 6) :
    (outboundFrame a c p)[8] = lo (crc16 (a :: c :: p.toList)) := by
  simp [← Vector.getElem_toList]

theorem outboundFrame_getElem_nine (a c : Byte) (p : Vector Byte 6) :
    (outboundFrame a c p)[9] = hi (crc16 (a :: c :: p.toList)) := by
  simp [← Vector.getElem_toList]

/-! ### The verdict as a response (R125) -/

theorem verify_of_length_ne {xs : List Byte} (h : xs.length ≠ 8) :
    verify xs = .lengthError := if_pos h

theorem verify_response_of_length {xs : List Byte} (h : xs.length = 8) :
    (verify xs).response =
      if crc16 (xs.take 6) = le16 xs 6 then
        { st := .ok, crc := some (crc16 (xs.take 6)), rcv := some (le16 xs 6), frame := some xs }
      else { st := .crcError, crc := some (crc16 (xs.take 6)), rcv := some (le16 xs 6) } := by
  rw [verify, if_neg (not_not.2 h)]
  by_cases hc : crc16 (xs.take 6) = le16 xs 6
  · rw [if_pos hc, if_neg (not_not.2 hc)]; rfl
  · rw [if_neg hc, if_pos hc]; rfl

/-! ### What CRC, ENC and VFY answer (R122, R130, R135) -/

/-- CRC adds one response with the checksum, and changes nothing else. -/
theorem exec_crc (xs : List Byte) (s : State) :
    exec (.crc xs) s = .next { s with
      responses := s.responses ++ [{ st := .ok, crc := some (crc16 xs) }] } := rfl

/-- ENC stores the outbound frame, adds one response with it, and changes nothing else. -/
theorem exec_enc (a c : Byte) (p : Vector Byte 6) (s : State) :
    exec (.enc a c p) s = .next { s with
      block := { s.block with txbuf := some (outboundFrame a c p) }
      responses := s.responses ++
        [{ st := .ok, frame := some (outboundFrame a c p).toList }] } := rfl

/-- VFY adds the verdict as one response, and changes nothing else. -/
theorem exec_vfy (xs : List Byte) (s : State) :
    exec (.vfy xs) s = .next { s with
      responses := s.responses ++ [(verify xs).response] } := rfl

/-- Settles O20: byte by byte, R120's loop shifts in the bit stream of the whole sequence. -/
theorem crcAnswersBitSerialCrc : Obligations.CrcAnswersBitSerialCrc := by
  intro xs s
  rw [← crc16_eq_bitSerialCrc]
  exact ⟨rfl, exec_crc xs s⟩

/-- Settles O24: ENC's frame is the outbound frame, whose last two bytes are the low and the
high byte of the checksum. -/
theorem encBuildsFrame : Obligations.EncBuildsFrame := by
  intro a c p s
  refine ⟨rfl, outboundFrame a c p, exec_enc a c p s, outboundFrame_take a c p, ?low, ?high⟩
  case low => rw [outboundFrame_getElem_eight, lo_toNat]
  case high => rw [outboundFrame_getElem_nine, hi_toNat]

/-- Settles O25: the validator tests the length, then the checksum of the first six bytes
against the little-endian word of the last two. -/
theorem vfyAnswersVerdict : Obligations.VfyAnswersVerdict := by
  intro xs s
  refine ⟨rfl, _, exec_vfy xs s, fun hlen => ?length, fun l h hlen hl hh => ?verdict⟩
  case length => rw [verify_of_length_ne hlen]; rfl
  case verdict =>
    exact ⟨le16 xs 6, le16_toNat_of_getElem? hl hh, verify_response_of_length hlen⟩

end Sys2Proof.Machine
end

section
/-! Proofs for the assembler (42_assembler.md R150 to R180). `STAT` in numbers, what each operation
answers, what an accepted byte does to the bytes collected since CLR, then the statements. -/

namespace Sys2Proof.Machine

/-! ### `STAT` in numbers (R26) -/

/-- The three fields of `STAT` do not overlap. -/
theorem Block.stat_toNat (b : Block) :
    b.stat.toNat = 16 * b.rxcnt.val + (4 * b.res.code.toNat + b.asm.code.toNat) := by
  have hn := b.rxcnt.isLt
  have hr := b.res.code.isLt
  have ha := b.asm.code.isLt
  have cnt : (BitVec.ofNat 8 b.rxcnt.val <<< 4).toNat = 16 * b.rxcnt.val := by
    rw [BitVec.toNat_shiftLeft, BitVec.toNat_ofNat, Nat.shiftLeft_eq]
    omega
  have res : (b.res.code.setWidth 8 <<< 2).toNat = 4 * b.res.code.toNat := by
    rw [BitVec.toNat_shiftLeft, BitVec.toNat_setWidth, Nat.shiftLeft_eq]
    omega
  have asm : (b.asm.code.setWidth 8).toNat = b.asm.code.toNat :=
    BitVec.toNat_setWidth_of_le (by decide)
  have high := (toNat_or_of_dvd_of_lt (k := 4) (by omega) (by omega)).trans
    (congrArg₂ (· + ·) cnt res)
  rw [Block.stat, toNat_or_of_dvd_of_lt (k := 2) (by omega) (by omega), high, asm, Nat.add_assoc]

theorem Block.stat_eq_ofNat (b : Block) :
    b.stat = BitVec.ofNat 8 (16 * b.rxcnt.val + (4 * b.res.code.toNat + b.asm.code.toNat)) := by
  rw [← Block.stat_toNat, BitVec.ofNat_toNat, BitVec.setWidth_eq]

/-! ### What CLR, RXB, ABT and CAN answer (R155 to R168) -/

theorem exec_clr (s : State) :
    exec .clr s = .next ((s.withBlock s.block.arm).respond { st := .ok, statv := some 0x01 }) := by
  have stat : s.block.arm.stat = 0x01 := Block.stat_eq_ofNat _
  rw [← stat]
  rfl

theorem exec_rxb_of_accept {s : State} {v : Byte} {b : Block} (ha : s.block.asm = .assembling)
    (hb : s.block.accept v = .ok b) :
    exec (.rxb v) s =
      .next ((s.withBlock b).respond { st := .ok, acc := some true, statv := some b.stat }) := by
  simp only [exec, execRxb, ha, hb]

theorem exec_rxb_of_not_assembling {s : State} (v : Byte) (ha : s.block.asm ≠ .assembling) :
    exec (.rxb v) s =
      .next (s.respond { st := .ok, acc := some false, statv := some s.block.stat }) := by
  simp only [exec, execRxb]
  split
  · contradiction
  · rfl
  · rfl

theorem exec_abt_of_assembling {s : State} (ha : s.block.asm = .assembling) :
    exec .abt s = .next ((s.withBlock (s.block.finish .lengthError)).respond
      { st := .ok, acc := some true, statv := some (s.block.finish .lengthError).stat }) := by
  simp only [exec, execAbt, ha]

theorem exec_abt_of_not_assembling {s : State} (ha : s.block.asm ≠ .assembling) :
    exec .abt s =
      .next (s.respond { st := .ok, acc := some false, statv := some s.block.stat }) := by
  simp only [exec, execAbt]
  split
  · contradiction
  · rfl
  · rfl

theorem exec_can (s : State) :
    exec .can s = .next ((s.withBlock s.block.cancel).respond
      { st := .ok, statv := some s.block.cancel.stat }) := rfl

/-! ### What the reads answer (R172 to R180) -/

/-- `RDRX i` is the word `0xA000 | i` with no operands (R72). -/
theorem encode_rdrx (k : Byte) :
    encode (.rdrx k) = { word := 0xA000#16 ||| k.setWidth 16, seq := [] } :=
  congrArg (Request.mk · []) (mkWord_eq_or 0xA 0x0 k)

/-- `RDTX i` is the word `0xC000 | i` with no operands (R72). -/
theorem encode_rdtx (k : Byte) :
    encode (.rdtx k) = { word := 0xC000#16 ||| k.setWidth 16, seq := [] } :=
  congrArg (Request.mk · []) (mkWord_eq_or 0xC 0x0 k)

theorem exec_rdst (s : State) :
    exec .rdst s = .next (s.respond { st := .ok, statv := some s.block.stat }) := rfl

theorem exec_rdrx_of_value {s : State} {k : Byte} {v : Byte}
    (hk : k.toNat < s.block.rxcnt.val) (hv : s.block.rxbuf[k.toNat]? = some (some v)) :
    exec (.rdrx k) s = .next (s.respond { st := .ok, byte := some v }) := by
  obtain ⟨_, hcell⟩ := Vector.getElem?_eq_some_iff.1 hv
  simp only [exec, execRdrx, dif_pos hk, hcell]

theorem exec_rdrx_of_le {s : State} {k : Byte} (hk : s.block.rxcnt.val ≤ k.toNat) :
    exec (.rdrx k) s = .next (s.raise .badIndex) := by
  simp only [exec, execRdrx, dif_neg (Nat.not_lt.2 hk)]

theorem exec_rdfr_of_frame {s : State} {f : List Byte} (ha : s.block.asm = .done)
    (hr : s.block.res = .ok) (hf : rxFrame s.block.rxbuf = some f) :
    exec .rdfr s = .next (s.respond { st := .ok, frame := some f }) := by
  simp only [exec, execRdfr, if_pos (And.intro ha hr), hf]

theorem exec_rdfr_of_not_verified {s : State} (h : ¬(s.block.asm = .done ∧ s.block.res = .ok)) :
    exec .rdfr s = .next (s.raise .notReady) := by
  simp only [exec, execRdfr, if_neg h]

theorem exec_rdtx_of_none {s : State} (k : Byte) (hf : s.block.txbuf = none) :
    exec (.rdtx k) s = .next (s.raise .notReady) := by
  simp only [exec, execRdtx, hf]

theorem exec_rdtx_of_le {s : State} {k : Byte} {f : Vector Byte 10}
    (hf : s.block.txbuf = some f) (hk : 10 ≤ k.toNat) :
    exec (.rdtx k) s = .next (s.raise .badIndex) := by
  simp only [exec, execRdtx, hf, dif_neg (Nat.not_lt.2 hk)]

theorem exec_rdtx_of_lt {s : State} {k : Byte} {f : Vector Byte 10}
    (hf : s.block.txbuf = some f) (hk : k.toNat < 10) :
    exec (.rdtx k) s = .next (s.respond { st := .ok, byte := some f[k.toNat] }) := by
  simp only [exec, execRdtx, hf, dif_pos hk]

/-! ### Cells that hold values (R23) -/

theorem Block.Inv.cell_value {b : Block} (h : b.Inv) {k : Nat} (hk : k < b.rxcnt.val) :
    ∃ v, b.rxbuf[k]? = some (some v) := by
  obtain ⟨-, -, -, -, -, cells⟩ := h
  have hlt : k < 8 := by omega
  obtain ⟨v, hv⟩ := Option.ne_none_iff_exists'.1 ((cells ⟨k, hlt⟩).2 hk)
  exact ⟨v, by rw [Vector.getElem?_eq_getElem hlt]; exact congrArg some hv⟩

/-- Under `RES = OK` all eight cells hold values. -/
theorem Block.Inv.frame_of_ok {b : Block} (h : b.Inv) (hr : b.res = .ok) :
    ∃ f, rxFrame b.rxbuf = some f := by
  obtain ⟨-, -, -, full, -, cells⟩ := h
  have count := full (.inl hr)
  exact rxFrame_isSome _ fun i => (cells i).2 (by omega)

/-! ### What an accepted byte does (R160, R162) -/

theorem Block.accept_txbuf {b b' : Block} {v : Byte} (h : b.accept v = .ok b') :
    b'.txbuf = b.txbuf := by
  obtain ⟨_, ⟨_, rfl⟩ | ⟨_, f, _, rfl⟩⟩ := Block.accept_ok h <;> rfl

theorem Block.store_eq_of_seven {b : Block} (v : Byte) (h : b.rxcnt.val = 7) :
    b.store v (by omega) = { b with rxbuf := b.rxbuf.set 7 (some v), rxcnt := 8 } := by
  obtain ⟨asm, res, ⟨n, hn⟩, buf, tx⟩ := b
  cases h
  rfl

/-- The frame a buffer with seven bytes holds once the eighth is stored. -/
theorem rxFrame_set_seven {buf : Vector (Option Byte) 8} {bs : List Byte} (v : Byte)
    (h : buf.toList.take 7 = bs.map some) :
    rxFrame (buf.set 7 (some v)) = some (bs ++ [v]) := by
  rw [rxFrame_eq_some, Vector.toList_set, List.set_eq_take_append_cons_drop, h]
  simp

/-- The eighth byte ends the attempt with the verdict on the eight bytes. -/
theorem Block.accept_of_seven {b : Block} {bs : List Byte} (v : Byte) (hn : b.rxcnt.val = 7)
    (hbs : b.rxbuf.toList.take 7 = bs.map some) :
    b.accept v = .ok { b with
      rxbuf := b.rxbuf.set 7 (some v), rxcnt := 8, asm := .done,
      res := if frameValid (bs ++ [v]) then .ok else .crcError } := by
  have frame : rxFrame (b.store v (by omega)).rxbuf = some (bs ++ [v]) := by
    rw [Block.store_eq_of_seven v hn]
    exact rxFrame_set_seven v hbs
  rw [Block.accept_eighth v hn frame, verify_res (rxFrame_length frame),
    Block.store_eq_of_seven v hn]
  rfl

/-- A frame's validity, from its first seven bytes and its last. -/
theorem frameValid_append_iff {bs : List Byte} (v : Byte) (h : bs.length = 7) :
    frameValid (bs ++ [v]) = true ↔ crc16 (bs.take 6) = le16 (bs ++ [v]) 6 := by
  simp [frameValid, h, List.take_append_of_le_length]

/-! ### The statements about one request -/

/-- Settles O28: the armed block's `STAT` has count 0, no outcome and the code of
ASSEMBLING. -/
theorem clrDiscardsAndArms : Obligations.ClrDiscardsAndArms :=
  fun s => ⟨rfl, exec_clr s⟩

/-- Settles O29: the count decides between storing the byte and ending the attempt with the
verdict; `STATV` is `STAT` in numbers. -/
theorem rxbStoresOrDrops : Obligations.RxbStoresOrDrops := by
  intro s v hinv
  obtain ⟨-, assemblingRes, -⟩ := hinv
  refine ⟨encode_rxb v, exec_rxb_of_not_assembling v, fun h ha => ?early,
    fun bs hn ha hbs => ?eighth⟩
  case early =>
    obtain ⟨hres, -⟩ := assemblingRes ha
    have stat : (s.block.store v (Nat.lt_succ_of_lt h)).stat =
        BitVec.ofNat 8 (16 * (s.block.rxcnt.val + 1) + 1) := by
      rw [Block.stat_eq_ofNat, Block.store_asm, Block.store_res, ha, hres]
      rfl
    rw [exec_rxb_of_accept ha (Block.accept_early v h), stat]
    rfl
  case eighth =>
    have hlen : bs.length = 7 := by simpa using (congrArg List.length hbs).symm
    rw [exec_rxb_of_accept ha (Block.accept_of_seven v hn hbs), Block.stat_eq_ofNat]
    simp only [frameValid_append_iff v hlen]
    split <;> rfl

/-- Settles O30: the finished block keeps the count, and its `STAT` has the codes of
LENGTH_ERROR and DONE. -/
theorem abtEndsAttemptAsLengthError : Obligations.AbtEndsAttemptAsLengthError := by
  intro s _
  refine ⟨rfl, fun ha => ?_, exec_abt_of_not_assembling⟩
  rw [exec_abt_of_assembling ha, Block.stat_eq_ofNat]
  rfl

/-- Settles O31: the cancelled block keeps the count, and its other codes are 0. -/
theorem canReturnsToIdle : Obligations.CanReturnsToIdle := by
  intro s
  refine ⟨rfl, ?_⟩
  rw [exec_can, Block.stat_eq_ofNat]
  rfl

/-- Settles O32: `STAT` in numbers, with both codes below 4. -/
theorem rdstReadsStat : Obligations.RdstReadsStat := by
  intro s
  have hr := s.block.res.code.isLt
  have ha := s.block.asm.code.isLt
  have stat := s.block.stat_toNat
  refine ⟨rfl, _, exec_rdst s, ?asm, ?res, by omega⟩
  case asm =>
    have low : s.block.stat.toNat % 4 = s.block.asm.code.toNat := by omega
    rw [low]
    cases s.block.asm <;> rfl
  case res =>
    have mid : s.block.stat.toNat / 4 % 4 = s.block.res.code.toNat := by omega
    rw [mid]
    cases s.block.res <;> rfl

/-- Settles O33: R23 item 6 gives every cell below the count a value. -/
theorem rdrxReadsStoredByte : Obligations.RdrxReadsStoredByte := by
  intro s k hinv
  refine ⟨encode_rdrx k, fun hk => ?_, exec_rdrx_of_le⟩
  obtain ⟨v, hv⟩ := hinv.cell_value hk
  exact ⟨v, hv, exec_rdrx_of_value hk hv⟩

/-- Only CLR and CAN end a verified attempt. -/
theorem exec_keeps_verified {i : Instr} {s t : State} (ha : s.block.asm = .done)
    (hr : s.block.res = .ok) (hclr : i ≠ .clr) (hcan : i ≠ .can) (h : exec i s = .next t) :
    t.block.asm = .done ∧ t.block.res = .ok ∧ t.block.rxbuf = s.block.rxbuf := by
  have notAssembling : s.block.asm ≠ .assembling := by simp [ha]
  obtain ⟨a, b, rfl, rfl | ⟨x, y, p, -, rfl⟩ | ⟨e, -⟩ | ⟨v, -, e, -⟩ | ⟨-, e, -⟩ | ⟨e, -⟩⟩ :=
    exec_next h
  · exact ⟨ha, hr, rfl⟩
  · exact ⟨ha, hr, rfl⟩
  · exact absurd e hclr
  · exact absurd e notAssembling
  · exact absurd e notAssembling
  · exact absurd e hcan

/-- Settles O34: under `RES = OK` R23 gives all eight cells a value, and no other instruction
ends a verified attempt. -/
theorem rdfrReadsVerifiedFrame : Obligations.RdfrReadsVerifiedFrame := by
  intro s hinv
  refine ⟨rfl, fun ha hr => ?verified, fun h => exec_rdfr_of_not_verified ?other,
    fun i t => exec_keeps_verified⟩
  case verified =>
    obtain ⟨f, hf⟩ := hinv.frame_of_ok hr
    exact ⟨f, (rxFrame_eq_some _ f).1 hf, exec_rdfr_of_frame ha hr hf⟩
  case other => exact not_and_or.2 h

/-- Only ENC writes `TXBUF` (R24). -/
theorem exec_keeps_txbuf {i : Instr} {s t : State} (henc : ∀ a c p, i ≠ .enc a c p)
    (h : exec i s = .next t) : t.block.txbuf = s.block.txbuf := by
  obtain ⟨a, b, rfl, rfl | ⟨x, y, p, e, -⟩ | ⟨-, rfl⟩ | ⟨v, -, -, hb⟩ | ⟨-, -, rfl⟩ | ⟨-, rfl⟩⟩ :=
    exec_next h
  · rfl
  · exact absurd e (henc x y p)
  · rfl
  · exact Block.accept_txbuf hb
  · rfl
  · rfl

/-- Settles O35: the frame is looked for before the index, and only ENC writes it. -/
theorem rdtxReadsFrameByte : Obligations.RdtxReadsFrameByte := by
  intro s k
  refine ⟨encode_rdtx k, exec_rdtx_of_none k, fun f => exec_rdtx_of_le, fun f v hf hv => ?byte,
    fun i t => exec_keeps_txbuf⟩
  obtain ⟨hk, rfl⟩ := List.getElem?_eq_some_iff.1 hv
  exact exec_rdtx_of_lt hf (by simpa using hk)

/-! ### The bytes collected since CLR (R155, R162) -/

/-- The block after CLR and the accepted bytes `bs`: they stand in order in the first cells, and
the eighth one has ended the attempt with its verdict. -/
structure Block.Collected (b : Block) (bs : List Byte) : Prop where
  count : b.rxcnt.val = bs.length
  cells : ∀ k : Nat, k < 8 → b.rxbuf[k]? = some bs[k]?
  collecting : bs.length < 8 → b.asm = .assembling ∧ b.res = .none
  ended : bs.length = 8 → b.asm = .done ∧ b.res = if frameValid bs then .ok else .crcError

theorem Block.arm_collected (b : Block) : b.arm.Collected [] where
  count := rfl
  cells k hk := by simp [hk]
  collecting _ := ⟨rfl, rfl⟩
  ended h := by cases h

/-- The cell at the count takes the next byte of the sequence. -/
theorem getElem?_set_count {buf : Vector (Option Byte) 8} {bs : List Byte} {n : Nat} (v : Byte)
    (hn : n = bs.length) (hlt : n < 8) (cells : ∀ k : Nat, k < 8 → buf[k]? = some bs[k]?) :
    ∀ k : Nat, k < 8 → (buf.set n (some v))[k]? = some (bs ++ [v])[k]? := by
  subst hn
  intro k hk
  rcases Nat.lt_trichotomy k bs.length with before | rfl | after
  · rw [Vector.getElem?_set_ne hlt (by omega), cells k hk, List.getElem?_append_left before]
  · simp
  · have past : (bs ++ [v]).length ≤ k := by simpa using after
    rw [Vector.getElem?_set_ne hlt (by omega), cells k hk, List.getElem?_eq_none past,
      List.getElem?_eq_none (by omega)]

/-- Seven collected bytes fill the first seven cells. -/
theorem Block.Collected.take_seven {b : Block} {bs : List Byte} (h : b.Collected bs)
    (hlen : bs.length = 7) : b.rxbuf.toList.take 7 = bs.map some := by
  apply List.ext_getElem (by simp [hlen])
  intro k _ hk
  have hk7 : k < bs.length := by simpa using hk
  have cell := h.cells k (by omega)
  rw [Vector.getElem?_eq_getElem (by omega), List.getElem?_eq_getElem hk7] at cell
  simpa using cell

/-- While fewer than eight bytes are collected, the next one is accepted. -/
theorem Block.Collected.accept {b : Block} {bs : List Byte} (h : b.Collected bs) (v : Byte)
    (hlt : bs.length < 8) :
    ∃ b', b.accept v = .ok b' ∧ b'.Collected (bs ++ [v]) ∧ b'.txbuf = b.txbuf := by
  have hlen : (bs ++ [v]).length = bs.length + 1 := List.length_append
  rcases Nat.lt_succ_iff_lt_or_eq.1 hlt with early | seven
  · have count : b.rxcnt.val < 7 := h.count ▸ early
    refine ⟨_, Block.accept_early v count, ?_, rfl⟩
    exact
      { count := by rw [hlen, ← h.count]; rfl
        cells := getElem?_set_count v h.count (by omega) h.cells
        collecting := fun _ => h.collecting hlt
        ended := fun h8 => by omega }
  · have count : b.rxcnt.val = 7 := h.count.trans seven
    refine ⟨_, Block.accept_of_seven v count (h.take_seven seven), ?_, rfl⟩
    exact
      { count := by rw [hlen, seven]; rfl
        cells := getElem?_set_count v seven.symm (by decide) h.cells
        collecting := fun h8 => by omega
        ended := fun _ => ⟨rfl, rfl⟩ }

/-! ### CLR and RXB as the host presents them (R49, R73) -/

theorem decode_encode_clr (m : Option Nat) : decode m (encode .clr) = .ok .clr := rfl

theorem decode_encode_rxb (m : Option Nat) (v : Byte) :
    decode m (encode (.rxb v)) = .ok (.rxb v) := by
  have legal : illegality m (encode (.rxb v)) = none := by
    simp [illegality, encode, requiredCount]
  rw [decode, legal]
  simp [encode, readOp]

/-- A legal request at the head of the host's inputs is taken off and run. -/
theorem step_of_decode_ok {s : State} {r : Request} {rest : List Input} {i : Instr}
    (hs : s.inputs = .request r :: rest) (hd : decode s.cfg.seqMax r = .ok i) :
    step s = exec i { s with inputs := rest } := by
  simp only [step, State.nextInput, hs, hd]

theorem run_succ_of_step {s t : State} (n : Nat) (h : step s = .next t) :
    Host.Core.run Sys2Proof.core (n + 1) s = Host.Core.run Sys2Proof.core n t := by
  have coreStep : Sys2Proof.core.step s = .next t := h
  simp only [Host.Core.run, coreStep]

/-- The inputs of `RXN bs` (R73). -/
abbrev rxbInputs (bs : List Byte) : List Input := bs.map fun b => .request (encode (.rxb b))

theorem step_clr {s : State} {rest : List Input} (hs : s.inputs = .request (encode .clr) :: rest) :
    ∃ t, step s = .next t ∧ t.inputs = rest ∧ t.block.Collected [] ∧
      t.block.txbuf = s.block.txbuf := by
  rw [step_of_decode_ok hs (decode_encode_clr _), exec_clr]
  exact ⟨_, rfl, rfl, Block.arm_collected s.block, rfl⟩

theorem step_rxb_of_collected {s : State} {got : List Byte} {v : Byte} {rest : List Input}
    (hs : s.inputs = .request (encode (.rxb v)) :: rest) (hgot : s.block.Collected got)
    (hlt : got.length < 8) :
    ∃ t, step s = .next t ∧ t.inputs = rest ∧ t.block.Collected (got ++ [v]) ∧
      t.block.txbuf = s.block.txbuf := by
  obtain ⟨b, hb, collected, tx⟩ := hgot.accept v hlt
  obtain ⟨ha, -⟩ := hgot.collecting hlt
  rw [step_of_decode_ok hs (decode_encode_rxb _ v),
    exec_rxb_of_accept (s := { s with inputs := rest }) ha hb]
  exact ⟨_, rfl, rfl, collected, tx⟩

/-- RXB of each byte in turn collects them all, up to the eighth. -/
theorem run_rxbInputs {got bs : List Byte} {s : State} {rest : List Input}
    (hs : s.inputs = rxbInputs bs ++ rest) (hgot : s.block.Collected got)
    (hlen : got.length + bs.length ≤ 8) :
    ∃ t, Host.Core.run Sys2Proof.core bs.length s = .next t ∧ t.inputs = rest ∧
      t.block.Collected (got ++ bs) ∧ t.block.txbuf = s.block.txbuf := by
  induction bs generalizing got s with
  | nil => exact ⟨s, rfl, hs, by simpa using hgot, rfl⟩
  | cons v bs ih =>
    rw [List.length_cons] at hlen
    obtain ⟨u, hstep, hu, hgot', htx⟩ := step_rxb_of_collected hs hgot (by omega)
    obtain ⟨t, hrun, ht, hall, htx'⟩ := ih hu hgot' (by simp; omega)
    refine ⟨t, ?_, ht, by simpa using hall, htx'.trans htx⟩
    rw [List.length_cons, run_succ_of_step _ hstep, hrun]

/-- Settles O42: CLR starts an empty collection, each RXB adds its byte to it, and the eighth
ends it. -/
theorem eighthByteEndsTheAttempt : Obligations.EighthByteEndsTheAttempt := by
  intro s bs rest hlen hs
  obtain ⟨u, hstep, hu, hempty, htx⟩ := step_clr hs
  obtain ⟨t, hrun, ht, ⟨count, cells, collecting, ended⟩, htx'⟩ :=
    run_rxbInputs hu hempty (by simpa using hlen)
  exact ⟨t, (run_succ_of_step _ hstep).trans hrun, ht, count, cells, htx'.trans htx, collecting,
    ended⟩

end Sys2Proof.Machine
end

section
/-! Proof for the deadline and the eighth byte (60_exceptions.md R207). Each of RXB and ABT that
comes first ends the attempt; an ended attempt is left as it is by the other. -/

namespace Sys2Proof.Machine

/-- Settles O43: the first request ends the attempt in DONE with its own outcome, so the second
finds no attempt in progress. -/
theorem issueOrderDecidesDeadline : Obligations.IssueOrderDecidesDeadline := by
  intro s v bs _ ha hn hbs
  refine ⟨?rxbFirst, ?abtFirst⟩
  case rxbFirst =>
    exact ⟨_, _, exec_rxb_of_accept ha (Block.accept_of_seven v hn hbs),
      exec_abt_of_not_assembling (by simp), rfl, rfl, rfl⟩
  case abtFirst =>
    exact ⟨_, _, exec_abt_of_assembling ha, exec_rxb_of_not_assembling v (by simp), rfl, rfl, rfl⟩

end Sys2Proof.Machine
end

section
/-! Proofs for the request codec (30_encoding.md R64 to R72). An encoded instruction is legal and is
read back by the operation map; a request that is read is the encoding of what it reads as. -/

namespace Sys2Proof

theorem decode_eq_ok_iff {m : Option Nat} {r : Request} {i : Instr} :
    decode m r = .ok i ↔ illegality m r = none ∧
      readOp (opOf r.word) (fnOf r.word) (immOf r.word) r.seq = .ok i := by
  unfold decode
  cases illegality m r <;> simp

/-- Of R69's conditions an encoded instruction can meet only item 6. -/
theorem illegality_encode_eq_none_iff (m : Option Nat) (i : Instr) :
    illegality m (encode i) = none ↔ i.wf m = true := by
  cases i with
  | crc s | vfy s | decU16 _ s | decI16 _ s | decU32 _ s | decF32 _ s =>
    simp [illegality, encode, requiredCount, Instr.wf, fitsSeqMax_iff]
  | enc | clr | rxb | abt | can | rdst | rdrx | rdfr | rdtx =>
    simp [illegality, encode, requiredCount, Instr.wf]

/-! ### The operation map on an encoded instruction (R67, R72) -/

theorem readEnc_operands (a c : Byte) (p : Vector Byte 6) :
    readEnc (a :: c :: p.toList) = .ok (.enc a c p) := by
  obtain ⟨⟨ps⟩, hp⟩ := p
  match ps, hp with
  | [_, _, _, _, _, _], _ => rfl

theorem readOp_encode (i : Instr) :
    readOp (opOf (encode i).word) (fnOf (encode i).word) (immOf (encode i).word) (encode i).seq
      = .ok i := by
  cases i with
  | enc a c p => simpa [readOp, encode] using readEnc_operands a c p
  | decU16 | decI16 | decU32 | decF32 => simp [readOp, encode, readDec]
  | crc | vfy | clr | rxb | abt | can | rdst | rdrx | rdfr | rdtx => simp [readOp, encode]

/-! ### The operation map undone (R67, R68) -/

theorem encode_of_readEnc {xs : List Byte} {i : Instr} (h : readEnc xs = .ok i) :
    encode i = { word := mkWord 0x2 0 0, seq := xs } := by
  unfold readEnc at h
  split at h
  · cases h; rfl
  · cases h

theorem encode_of_readDec {fn : BitVec 4} {o : Byte} {xs : List Byte} {i : Instr}
    (h : readDec fn o xs = .ok i) : encode i = { word := mkWord 0x8 fn o, seq := xs } := by
  unfold readDec at h
  split_ifs at h <;> cases h <;> subst fn <;> rfl

/-- The instruction read from a request whose unused fields are 0, and which has no operands
where R67 allows none, encodes to that request. -/
theorem encode_of_readOp {op fn : BitVec 4} {imm : Byte} {xs : List Byte} {i : Instr}
    (hfn : op ≠ 0x8 → fn = 0)
    (himm : ¬(op = 0x5 ∨ op = 0x8 ∨ op = 0xA ∨ op = 0xC) → imm = 0)
    (hcount : requiredCount op = some 0 → xs = [])
    (h : readOp op fn imm xs = .ok i) :
    encode i = { word := mkWord op fn imm, seq := xs } := by
  -- the codes 0x0 to 0xF in order: 0x0 and the last three are reserved
  rcases opcode_cases op with
    rfl | rfl | rfl | rfl | rfl | rfl | rfl | rfl | rfl | rfl | rfl | rfl | rfl | rfl | rfl | rfl
  · cases h
  · cases h; rw [hfn (by decide), himm (by decide)]; rfl
  · rw [hfn (by decide), himm (by decide)]; exact encode_of_readEnc h
  · cases h; rw [hfn (by decide), himm (by decide)]; rfl
  · cases h; rw [hfn (by decide), himm (by decide), hcount rfl]; rfl
  · cases h; rw [hfn (by decide), hcount rfl]; rfl
  · cases h; rw [hfn (by decide), himm (by decide), hcount rfl]; rfl
  · cases h; rw [hfn (by decide), himm (by decide), hcount rfl]; rfl
  · exact encode_of_readDec h
  · cases h; rw [hfn (by decide), himm (by decide), hcount rfl]; rfl
  · cases h; rw [hfn (by decide), hcount rfl]; rfl
  · cases h; rw [hfn (by decide), himm (by decide), hcount rfl]; rfl
  · cases h; rw [hfn (by decide), hcount rfl]; rfl
  · cases h
  · cases h
  · cases h

theorem encode_of_decode {m : Option Nat} {r : Request} {i : Instr} (h : decode m r = .ok i) :
    encode i = r := by
  obtain ⟨legal, read⟩ := decode_eq_ok_iff.1 h
  obtain ⟨-, -, hfn, himm, hcount, -⟩ := (illegality_eq_none m r).1 legal
  rw [encode_of_readOp (fun h8 => not_not.1 fun hne => hfn ⟨h8, hne⟩)
    (fun hu => not_not.1 fun hne => himm ⟨hu, hne⟩)
    (fun h0 => List.length_eq_zero_iff.1 (hcount 0 h0)) read, mkWord_fields]

end Sys2Proof

namespace Sys2Proof.Machine

/-- Settles O1: an encoded instruction is legal, and the operation map reads it back. -/
theorem decodeOfEncodeIsInstruction : Obligations.DecodeOfEncodeIsInstruction := fun m i h =>
  decode_eq_ok_iff.2 ⟨(illegality_encode_eq_none_iff m i).2 h, readOp_encode i⟩

/-- Settles O2: legality fixes the fields the operation map does not read, so the map can be
undone; and the encoding is legal only for a well-formed instruction. -/
theorem decodableRequestIsItsEncoding : Obligations.DecodableRequestIsItsEncoding := by
  intro m r i h
  obtain ⟨legal, -⟩ := decode_eq_ok_iff.1 h
  have back : encode i = r := encode_of_decode h
  exact ⟨back, (illegality_encode_eq_none_iff m i).1 (back ▸ legal)⟩

/-- Settles O4: each request is the encoding of its instruction. -/
theorem writtenWordsDecode : Obligations.WrittenWordsDecode :=
  ⟨decodeOfEncodeIsInstruction none (.enc 0x02 0x3B #v[1, 1, 0, 0, 0, 0]) rfl,
    decodeOfEncodeIsInstruction none (.rxb 0x66) rfl,
    decodeOfEncodeIsInstruction none (.decF32 2 [0, 0, 0x43, 0x66, 0, 0]) rfl,
    decodeOfEncodeIsInstruction none (.rdtx 10) rfl⟩

end Sys2Proof.Machine
end

section
/-! Proofs for the CRC's algebra (41_codec.md R120 to R127). The register's shift on a zero bit is
linear and loses nothing; every byte is eight such shifts. So flipping bits of a sequence changes
its CRC by the shifts of one word, and a frame's own CRC bytes bring the register to a constant. -/

namespace Sys2Proof.Machine

/-! ### The register's shift on a zero bit -/

/-- One shift of the register with the data bit 0. -/
def zeroShift (r : U16) : U16 := shiftBit r false

theorem zeroShift_xor (r q : U16) : zeroShift (r ^^^ q) = zeroShift r ^^^ zeroShift q :=
  shiftBit_xor r q false false

theorem zeroShift_iterate_xor (n : Nat) (r q : U16) :
    zeroShift^[n] (r ^^^ q) = zeroShift^[n] r ^^^ zeroShift^[n] q := by
  induction n generalizing r q with
  | zero => rfl
  | succ n ih => rw [Function.iterate_succ_apply, zeroShift_xor, ih]; rfl

/-- The result's top bit tells whether a 1 has left the register, so nothing is lost. -/
theorem zeroShift_eq_zero {r : U16} (h : zeroShift r = 0) : r = 0 := by
  have shifted : r >>> 1 = tap (r.getLsbD 0) := by
    rwa [zeroShift, shiftBit_eq, Bool.xor_false, BitVec.ofNat_eq_ofNat,
      BitVec.xor_eq_zero_iff] at h
  have bit (k : Nat) : r.getLsbD (1 + k) = (tap (r.getLsbD 0)).getLsbD k := by
    rw [← shifted, BitVec.getLsbD_ushiftRight]
  have low : r.getLsbD 0 = false := by
    have top := bit 15
    cases hr : r.getLsbD 0
    · rfl
    · simp [hr, tap] at top
  apply BitVec.eq_of_getLsbD_eq
  intro k _
  cases k with
  | zero => exact low
  | succ k => rw [Nat.add_comm, bit k, low]; simp [tap]

theorem zeroShift_injective : Function.Injective zeroShift := by
  intro r q h
  have cancels : zeroShift (r ^^^ q) = 0 := by rw [zeroShift_xor, h]; exact BitVec.xor_self
  exact BitVec.xor_eq_zero_iff.1 (zeroShift_eq_zero cancels)

/-! ### A byte as eight shifts (R120) -/

/-- The data bit exclusive-ored into the register is shifted out like the data bit at the input;
the rest of the byte stays ahead. -/
theorem zeroShift_xor_byte (r : U16) (b : Byte) :
    zeroShift (r ^^^ b.setWidth 16) = shiftBit r (b.getLsbD 0) ^^^ (b >>> 1).setWidth 16 := by
  have low : (b.setWidth 16).getLsbD 0 = b.getLsbD 0 := by simp
  have apart := shiftBit_xor r (b.setWidth 16) (b.getLsbD 0) (b.getLsbD 0)
  rw [Bool.xor_self] at apart
  rw [zeroShift, apart, shiftBit_eq (b.setWidth 16), low, Bool.xor_self,
    BitVec.setWidth_ushiftRight (by decide)]
  exact congrArg _ BitVec.xor_zero

theorem zeroShift_iterate_xor_byte (k : Nat) (r : U16) (b : Byte) :
    zeroShift^[k] (r ^^^ b.setWidth 16) = crcBits k r b ^^^ (b >>> k).setWidth 16 := by
  induction k generalizing r b with
  | zero => simp [crcBits]
  | succ k ih =>
    rw [Function.iterate_succ_apply, zeroShift_xor_byte, ih, crcBits_succ,
      ← BitVec.shiftRight_add, Nat.add_comm 1 k]

theorem crcByte_eq_iterate (r : U16) (b : Byte) :
    crcByte r b = zeroShift^[8] (r ^^^ b.setWidth 16) := by
  have gone : b >>> 8 = 0 := BitVec.ushiftRight_eq_zero (le_refl 8)
  rw [zeroShift_iterate_xor_byte, gone]
  simp [crcByte]

theorem crcByte_xor (r q : U16) (a b : Byte) :
    crcByte (r ^^^ q) (a ^^^ b) = crcByte r a ^^^ crcByte q b := by
  simp only [crcByte_eq_iterate, ← zeroShift_iterate_xor, BitVec.setWidth_xor]
  congr 1
  ac_rfl

/-- Settles O21: the per-byte form's eight shifts are the loop's eight rounds. -/
theorem crcPerByteFormAgrees : Obligations.CrcPerByteFormAgrees := by
  intro xs
  simp only [crc16, perByteCrc, funext₂ crcByte_eq_iterate]
  rfl

/-! ### The register over a sequence (R123) -/

theorem foldl_crcByte_xorBytes {xs es : List Byte} (h : xs.length = es.length) (r q : U16) :
    (xorBytes xs es).foldl crcByte (r ^^^ q) = xs.foldl crcByte r ^^^ es.foldl crcByte q := by
  induction xs generalizing es r q with
  | nil =>
    cases es with
    | nil => rfl
    | cons e es => cases h
  | cons x xs ih =>
    cases es with
    | nil => cases h
    | cons e es =>
      simp only [xorBytes, List.zipWith_cons_cons, List.foldl_cons, crcByte_xor]
      exact ih (Nat.succ.inj h) _ _

theorem xorBytes_zeros (xs : List Byte) : xorBytes xs (List.replicate xs.length 0) = xs := by
  induction xs with
  | nil => rfl
  | cons x xs ih => exact congrArg₂ List.cons BitVec.xor_zero ih

theorem foldl_crcByte_zeros (n : Nat) (r : U16) :
    (List.replicate n 0).foldl crcByte r = zeroShift^[8 * n] r := by
  induction n generalizing r with
  | zero => rfl
  | succ n ih =>
    have byte : crcByte r 0 = zeroShift^[8] r := by rw [crcByte_eq_iterate]; simp
    rw [List.replicate_succ, List.foldl_cons, ih, byte, Nat.mul_succ, Function.iterate_add_apply]

/-- A change of the register before a sequence is shifted through its bits. -/
theorem foldl_crcByte_xor (xs : List Byte) (r d : U16) :
    xs.foldl crcByte (r ^^^ d) = xs.foldl crcByte r ^^^ zeroShift^[8 * xs.length] d := by
  rw [← foldl_crcByte_zeros, ← foldl_crcByte_xorBytes List.length_replicate.symm,
    xorBytes_zeros]

/-- Settles O22: with three terms, `CRC_INIT` and the complement are each exclusive-ored an odd
number of times. -/
theorem crcIsAffine : Obligations.CrcIsAffine := by
  intro xs es h
  have length : xs.length = (xorBytes es (List.replicate es.length 0)).length := by
    rw [xorBytes_zeros, h]
  have sum : (xorBytes xs es).foldl crcByte crcInit = xs.foldl crcByte crcInit ^^^
      (es.foldl crcByte crcInit ^^^ (List.replicate xs.length 0).foldl crcByte crcInit) := by
    rw [h, ← foldl_crcByte_xorBytes List.length_replicate.symm, ← foldl_crcByte_xorBytes length,
      xorBytes_zeros, BitVec.xor_self]
    rfl
  simp only [crc16, sum, ← BitVec.not_xor_left, ← BitVec.not_xor_right, BitVec.not_not,
    BitVec.xor_assoc]

/-! ### A sequence with its own CRC appended (R123, R126) -/

/-- The rounds on the register's own low bits only shift it. -/
theorem crcBits_of_low_bits {k : Nat} {r : U16} {b : Byte}
    (h : ∀ j < k, b.getLsbD j = r.getLsbD j) : crcBits k r b = r >>> k := by
  induction k generalizing r b with
  | zero => rfl
  | succ k ih =>
    have shift : shiftBit r (b.getLsbD 0) = r >>> 1 := by
      rw [shiftBit_eq, h 0 k.succ_pos, Bool.xor_self]
      exact BitVec.xor_zero
    rw [crcBits_succ, shift, ih, ← BitVec.shiftRight_add, Nat.add_comm]
    intro j hj
    simpa [Nat.add_comm] using h (j + 1) (Nat.succ_lt_succ hj)

/-- A register's own two bytes, low byte first, clear it. -/
theorem foldl_crcByte_own_bytes (w : U16) : [lo w, hi w].foldl crcByte w = 0 := by
  have low : crcByte w (lo w) = w >>> 8 := crcBits_of_low_bits fun j hj => by simp [lo, hj]
  have high : crcByte (w >>> 8) (hi w) = w >>> 8 >>> 8 :=
    crcBits_of_low_bits fun j hj => by simp [hi, hj]
  rw [List.foldl_cons, List.foldl_cons, List.foldl_nil, low, high, ← BitVec.shiftRight_add]
  exact BitVec.ushiftRight_eq_zero (le_refl 16)

/-- `b ++ [lo(k), hi(k)]` with `k = crc16(b)`. -/
def appendCrc (b : List Byte) : List Byte := b ++ [lo (crc16 b), hi (crc16 b)]

theorem crc16_appendCrc (b : List Byte) : crc16 (appendCrc b) = 0x0F47 := by
  have register : b.foldl crcByte crcInit = crc16 b ^^^ 0xFFFF := by
    rw [show (0xFFFF : U16) = BitVec.allOnes 16 from rfl, BitVec.xor_allOnes, crc16,
      BitVec.not_not]
  have firstByte : zeroShift^[8] 0xFFFF = 0x0F87 := by decide
  have secondByte : zeroShift^[8] 0x0F87 = 0xF0B8 := by decide
  have residue : zeroShift^[8 * 2] 0xFFFF = 0xF0B8 := by
    rw [Nat.mul_two, Function.iterate_add_apply, firstByte, secondByte]
  rw [appendCrc, crc16, List.foldl_append, register, foldl_crcByte_xor, foldl_crcByte_own_bytes]
  exact congrArg (fun r : U16 => ~~~(0 ^^^ r)) residue

theorem le16_appendCrc (b : List Byte) : le16 (appendCrc b) b.length = crc16 b := by
  have hl : (appendCrc b)[b.length]? = some (lo (crc16 b)) := by simp [appendCrc]
  have hh : (appendCrc b)[b.length + 1]? = some (hi (crc16 b)) := by simp [appendCrc]
  apply BitVec.eq_of_toNat_eq
  rw [le16_toNat_of_getElem? hl hh, lo_toNat, hi_toNat]
  omega

theorem take_appendCrc (b : List Byte) : (appendCrc b).take b.length = b := List.take_left

theorem lo_le16 (xs : List Byte) (o : Nat) : lo (le16 xs o) = byteAt xs o := by
  have hlt := (byteAt xs o).isLt
  apply BitVec.eq_of_toNat_eq
  rw [lo_toNat, le16_toNat]
  omega

theorem hi_le16 (xs : List Byte) (o : Nat) : hi (le16 xs o) = byteAt xs (o + 1) := by
  have hlt := (byteAt xs o).isLt
  apply BitVec.eq_of_toNat_eq
  rw [hi_toNat, le16_toNat]
  omega

/-- An 8-byte sequence that carries its CRC is its first 6 bytes with that appended. -/
theorem eq_appendCrc {f : List Byte} (hlen : f.length = 8)
    (hcrc : crc16 (f.take 6) = le16 f 6) : f = appendCrc (f.take 6) := by
  rw [appendCrc, hcrc, lo_le16, hi_le16]
  match f, hlen with
  | [_, _, _, _, _, _, _, _], _ => rfl

/-- Settles O23: both frames are a sequence with its own CRC appended. -/
theorem crcOfWholeFrameIsConstant : Obligations.CrcOfWholeFrameIsConstant := by
  refine ⟨fun f hlen hcrc => ?inbound, fun a c p => ?outbound⟩
  case inbound =>
    rw [eq_appendCrc hlen hcrc]
    exact crc16_appendCrc _
  case outbound =>
    rw [outboundFrame_toList]
    exact crc16_appendCrc (a :: c :: p.toList)

/-- Settles O26: the validator finds the six bytes and their CRC where it looks for them. -/
theorem vfyAcceptsAppendedCrc : Obligations.VfyAcceptsAppendedCrc := by
  intro b s hlen
  have length : (appendCrc b).length = 8 := by simp [appendCrc, hlen]
  have body : (appendCrc b).take 6 = b := hlen ▸ take_appendCrc b
  have trailer : le16 (appendCrc b) 6 = crc16 b := hlen ▸ le16_appendCrc b
  have verdict := verify_response_of_length length
  rw [body, trailer, if_pos rfl] at verdict
  exact (exec_vfy (appendCrc b) s).trans (by rw [verdict]; rfl)

/-! ### Flipped bits (R127) -/

/-- What flipping the bit `n` places before the end of a sequence changes in its CRC. -/
def bitSyndrome (n : Nat) : U16 := zeroShift^[n] 0x8408

theorem crcByte_flip (r : U16) (b : Byte) {k : Nat} (hk : k < 8) :
    crcByte r (b ^^^ (1#8 <<< k)) = crcByte r b ^^^ bitSyndrome (7 - k) := by
  have single : ∀ k : Fin 8, zeroShift^[8] (0 ^^^ (1#8 <<< k.val).setWidth 16) =
      bitSyndrome (7 - k.val) := by decide
  rw [← single ⟨k, hk⟩, ← crcByte_eq_iterate, ← crcByte_xor]
  congr 1
  exact BitVec.xor_zero.symm

theorem flipBit_cons_of_lt (x : Byte) (xs : List Byte) {i : Nat} (h : i < 8) :
    flipBit (x :: xs) i = (x ^^^ (1#8 <<< i)) :: xs := by
  rw [flipBit, Nat.div_eq_of_lt h, Nat.mod_eq_of_lt h]
  rfl

theorem flipBit_cons_add (x : Byte) (xs : List Byte) (i : Nat) :
    flipBit (x :: xs) (i + 8) = x :: flipBit xs i := by
  rw [flipBit, Nat.add_mod_right, Nat.add_div_right _ (by decide)]
  rfl

theorem flipBit_length (xs : List Byte) (i : Nat) : (flipBit xs i).length = xs.length :=
  List.length_modify ..

theorem foldl_crcByte_flipBit {xs : List Byte} {i : Nat} (h : i < 8 * xs.length) (r : U16) :
    (flipBit xs i).foldl crcByte r =
      xs.foldl crcByte r ^^^ bitSyndrome (8 * xs.length - 1 - i) := by
  induction xs generalizing i r with
  | nil => exact absurd h (Nat.not_lt_zero i)
  | cons x xs ih =>
    rw [List.length_cons] at h ⊢
    rcases Nat.lt_or_ge i 8 with first | later
    · rw [flipBit_cons_of_lt x xs first, List.foldl_cons, crcByte_flip r x first,
        foldl_crcByte_xor, bitSyndrome, ← Function.iterate_add_apply, bitSyndrome,
        show 8 * (xs.length + 1) - 1 - i = 8 * xs.length + (7 - i) by omega]
      rfl
    · obtain ⟨i, rfl⟩ := Nat.exists_eq_add_of_le' later
      rw [flipBit_cons_add, List.foldl_cons, ih (by omega),
        show 8 * (xs.length + 1) - 1 - (i + 8) = 8 * xs.length - 1 - i by omega]
      rfl

theorem crc16_flipBit {xs : List Byte} {i : Nat} (h : i < 8 * xs.length) :
    crc16 (flipBit xs i) = crc16 xs ^^^ bitSyndrome (8 * xs.length - 1 - i) := by
  rw [crc16, foldl_crcByte_flipBit h, BitVec.not_xor_left]
  rfl

theorem bitSyndrome_ne_zero (n : Nat) : bitSyndrome n ≠ 0 := by
  have fixed : zeroShift^[n] 0 = 0 := Function.iterate_fixed (by decide) n
  intro h
  exact absurd (zeroShift_injective.iterate n (h.trans fixed.symm)) (by decide)

/-- No two bits of a frame have one syndrome: the register's period is longer than a frame. -/
theorem bitSyndrome_injOn : Set.InjOn bitSyndrome (Set.Iio 64) := by
  have period : ∀ d : Fin 63, zeroShift^[d.val + 1] 0x8408 ≠ 0x8408 := by decide
  have distinct {m n : Nat} (hlt : n < m) (hm : m < 64) : bitSyndrome m ≠ bitSyndrome n := by
    obtain ⟨d, rfl⟩ := Nat.exists_eq_add_of_lt hlt
    intro h
    apply period ⟨d, by omega⟩
    simpa only [Nat.add_assoc, Nat.add_sub_cancel_left] using
      Function.iterate_cancel zeroShift_injective h
  intro m hm n hn h
  rcases Nat.lt_trichotomy m n with hlt | heq | hgt
  · exact absurd h.symm (distinct hlt hn)
  · exact heq
  · exact absurd h (distinct hgt hm)

theorem xor_ne_self_iff (x d : U16) : x ^^^ d ≠ x ↔ d ≠ 0 := by
  conv_lhs => rhs; rw [← BitVec.xor_zero (x := x)]
  exact (BitVec.xor_right_inj x).not

theorem crc16_of_frameValid {f : List Byte} (h : frameValid f = true) :
    f.length = 8 ∧ crc16 f = 0x0F47 := by
  have valid : f.length = 8 ∧ crc16 (f.take 6) = le16 f 6 := by simpa [frameValid] using h
  exact ⟨valid.1, crcOfWholeFrameIsConstant.1 f valid.1 valid.2⟩

/-- VFY answers `CRC_ERROR` to 8 bytes whose CRC is not that of a valid frame. -/
theorem exec_vfy_of_crc16_ne {f : List Byte} (s : State) (hlen : f.length = 8)
    (h : crc16 f ≠ 0x0F47) :
    ∃ c r, exec (.vfy f) s = .next { s with responses := s.responses ++
      [{ st := .crcError, crc := some c, rcv := some r }] } := by
  have mismatch : crc16 (f.take 6) ≠ le16 f 6 := fun hcrc =>
    h (crcOfWholeFrameIsConstant.1 f hlen hcrc)
  have verdict := verify_response_of_length hlen
  rw [if_neg mismatch] at verdict
  exact ⟨_, _, by rw [exec_vfy, verdict]⟩

/-- Settles O27: the CRC over the whole frame leaves the constant of valid frames, since no bit's
syndrome is 0 and no two bits of a frame share one. -/
theorem vfyRefusesOneAndTwoBitErrors : Obligations.VfyRefusesOneAndTwoBitErrors := by
  intro f s hf i j hi hj hij
  obtain ⟨hlen, hcrc⟩ := crc16_of_frameValid hf
  have one : crc16 (flipBit f i) = 0x0F47 ^^^ bitSyndrome (63 - i) := by
    rw [crc16_flipBit (by omega), hlen, hcrc]
  have two : crc16 (flipBit (flipBit f i) j) =
      0x0F47 ^^^ bitSyndrome (63 - i) ^^^ bitSyndrome (63 - j) := by
    rw [crc16_flipBit (by rw [flipBit_length]; omega), flipBit_length, hlen, one]
  constructor
  · apply exec_vfy_of_crc16_ne s (by rw [flipBit_length, hlen])
    rw [one, xor_ne_self_iff]
    exact bitSyndrome_ne_zero _
  · apply exec_vfy_of_crc16_ne s (by rw [flipBit_length, flipBit_length, hlen])
    rw [two, BitVec.xor_assoc, xor_ne_self_iff]
    have same := bitSyndrome_injOn (Set.mem_Iio.2 (by omega : 63 - i < 64))
      (Set.mem_Iio.2 (by omega : 63 - j < 64))
    have apart : 63 - i ≠ 63 - j := by omega
    exact fun h => apart (same (BitVec.xor_eq_zero_iff.1 h))

end Sys2Proof.Machine
end

section
/-! Proofs for the reads of a sequence (20_memory.md R41 to R43, 40_decoders.md R100): each byte is
read at its own index, and a wide read is two narrow ones. -/

namespace Sys2Proof.Machine

/-- A byte inside a slice is determined by the slice. -/
theorem byteAt_eq_of_slice_eq {xs ys : List Byte} {o w : Nat}
    (h : (xs.drop o).take w = (ys.drop o).take w) {j : Nat} (hj : j < w) :
    byteAt xs (o + j) = byteAt ys (o + j) := by
  have cell : xs[o + j]? = ys[o + j]? := by
    simpa [List.getElem?_take_of_lt hj] using congrArg (·[j]?) h
  rw [byteAt, byteAt, List.getD_eq_getElem?_getD, cell, ← List.getD_eq_getElem?_getD]

theorem be16_eq_of_slice_eq {xs ys : List Byte} {o : Nat}
    (h : (xs.drop o).take 2 = (ys.drop o).take 2) : be16 xs o = be16 ys o := by
  have first : byteAt xs o = byteAt ys o := byteAt_eq_of_slice_eq h (j := 0) (by decide)
  rw [be16, be16, first, byteAt_eq_of_slice_eq h (j := 1) (by decide)]

theorem be32_eq_of_slice_eq {xs ys : List Byte} {o : Nat}
    (h : (xs.drop o).take 4 = (ys.drop o).take 4) : be32 xs o = be32 ys o := by
  have byte {j : Nat} (hj : j < 4) := byteAt_eq_of_slice_eq h hj
  have first : byteAt xs o = byteAt ys o := byte (j := 0) (by decide)
  rw [be32, be32, first, byte (j := 1) (by decide), byte (j := 2) (by decide),
    byte (j := 3) (by decide)]

/-- Settles O18: with enough bytes `dec` is `decValue`, which reads the slice's bytes only. -/
theorem decReadsOnlyItsSlice : Obligations.DecReadsOnlyItsSlice := by
  intro cfg k xs ys o hx hy slice
  have value : decValue xs o k = decValue ys o k := by
    cases k with
    | u16 => exact congrArg (BitVec.setWidth 32) (be16_eq_of_slice_eq slice)
    | i16 => exact congrArg (BitVec.signExtend 32) (be16_eq_of_slice_eq slice)
    | u32 => exact be32_eq_of_slice_eq slice
    | f32 => exact be32_eq_of_slice_eq slice
  rw [dec_of_enough cfg hx, dec_of_enough cfg hy, value]
  exact ⟨rfl, rfl⟩

/-- Settles O19: both sides are the same sum of the four bytes' values. -/
theorem wideReadIsTwoNarrowReads : Obligations.WideReadIsTwoNarrowReads := by
  intro xs o _
  have hlt := (be16 xs o).isLt
  have hlt' := (be16 xs (o + 2)).isLt
  have upper := be16_toNat xs o
  have lower : (be16 xs (o + 2)).toNat =
      256 * (byteAt xs (o + 2)).toNat + (byteAt xs (o + 3)).toNat := be16_toNat xs (o + 2)
  have low := BitVec.toNat_setWidth_of_le (b := be16 xs (o + 2)) (show 16 ≤ 32 by decide)
  have high : ((be16 xs o).setWidth 32 <<< 16).toNat = 65536 * (be16 xs o).toNat := by
    rw [BitVec.toNat_shiftLeft, BitVec.toNat_setWidth_of_le (by decide), Nat.shiftLeft_eq]
    omega
  apply BitVec.eq_of_toNat_eq
  rw [toNat_or_of_dvd_of_lt (k := 16) (by omega) (by omega), high, low, be32_toNat]
  omega

end Sys2Proof.Machine
end

section
/-! Proofs for the state invariants (10_state.md R22 to R24). Each is kept by the six moves a block
makes, so every step keeps it. -/

namespace Sys2Proof.Machine

/-! ### The eight cells (R20) -/

theorem rxFrame_eq_none {buf : Vector (Option Byte) 8} {j : Nat} (hj : j < 8)
    (h : buf[j] = none) : rxFrame buf = none := by
  apply Option.eq_none_iff_forall_ne_some.2
  intro f hf
  have cells := (rxFrame_eq_some buf f).1 hf
  have cell : none ∈ f.map some := by
    rw [← cells, ← h]
    exact Vector.mem_toList_iff.2 (Vector.getElem_mem hj)
  simp at cell

/-- What an accepted byte does to the receive buffer (R160). -/
theorem Block.accept_stores {b b' : Block} {v : Byte} (h : b.accept v = .ok b') :
    ∃ hc : b.rxcnt.val < 8, b'.rxbuf = b.rxbuf.set b.rxcnt.val (some v) hc ∧
      b'.rxcnt.val = b.rxcnt.val + 1 := by
  obtain ⟨hc, ⟨_, rfl⟩ | ⟨_, f, _, rfl⟩⟩ := Block.accept_ok h <;> exact ⟨hc, rfl, rfl⟩

/-! ### What every step keeps -/

/-- A property of the block that reset has and that each write of an instruction keeps. -/
structure Block.Kept (P : Block → Prop) : Prop where
  reset : P Block.reset
  setTx : ∀ b a c p, P b → P (b.setTx (outboundFrame a c p))
  arm : ∀ b, P b → P b.arm
  accept : ∀ b b' v, P b → b.asm = .assembling → b.accept v = .ok b' → P b'
  abort : ∀ b, P b → b.asm = .assembling → P (b.finish .lengthError)
  cancel : ∀ b, P b → P b.cancel

theorem Block.Kept.step {P : Block → Prop} (kept : Block.Kept P) {s t : State} (hs : P s.block)
    (h : step s = .next t) : P t.block := by
  rcases step_block h with e | e | ⟨i, rest, h⟩
  · exact e ▸ hs
  · exact e ▸ kept.reset
  · obtain ⟨a, b, rfl, rfl | ⟨x, y, p, -, rfl⟩ | ⟨-, rfl⟩ | ⟨v, -, ha, hb⟩ | ⟨-, ha, rfl⟩ |
      ⟨-, rfl⟩⟩ := exec_next h
    · exact hs
    · exact kept.setTx _ x y p hs
    · exact kept.arm _ hs
    · exact kept.accept _ _ v hs ha hb
    · exact kept.abort _ hs ha
    · exact kept.cancel _ hs

/-! ### The six invariants (R23) -/

theorem replicate_cells_iff :
    ∀ i : Fin 8, (Vector.replicate 8 (none : Option Byte))[i] ≠ none ↔ i.val < 0 := by
  decide

/-- Storing at the count keeps item 6 of R23. -/
theorem set_count_cells_iff {buf : Vector (Option Byte) 8} {n : Nat} (hn : n < 8) (v : Byte)
    (cells : ∀ i : Fin 8, buf[i] ≠ none ↔ i.val < n) :
    ∀ i : Fin 8, (buf.set n (some v) hn)[i] ≠ none ↔ i.val < n + 1 := by
  intro i
  have old := cells i
  rw [Fin.getElem_fin] at old ⊢
  by_cases h : n = i.val
  · simp [h]
  · rw [Vector.getElem_set_ne _ _ h, old]
    omega

theorem Block.Inv.of_accept {b b' : Block} {v : Byte} (h : b.Inv) (ha : b.asm = .assembling)
    (hb : b.accept v = .ok b') : b'.Inv := by
  obtain ⟨-, assembling, -, -, -, cells⟩ := h
  obtain ⟨hres, -⟩ := assembling ha
  have cells' := fun hc => set_count_cells_iff (buf := b.rxbuf) hc v cells
  obtain ⟨hc, ⟨hlt, rfl⟩ | ⟨h7, f, hf, rfl⟩⟩ := Block.accept_ok hb
  · exact ⟨by simp [ha], fun _ => ⟨hres, Nat.succ_lt_succ hlt⟩, by simp [ha], by simp [hres],
      by simp [hres], cells' hc⟩
  · have verdict := verify_res (rxFrame_length hf)
    refine ⟨by simp, by simp, fun _ => ?_, fun _ => by simp [h7], fun e => ?_, cells' hc⟩
    · rw [Block.finish_res, verdict]; split <;> decide
    · rw [Block.finish_res, verdict] at e; split at e <;> cases e

theorem Block.inv_kept : Block.Kept Block.Inv where
  reset := by decide
  setTx _ _ _ _ h := h
  arm _ _ := ⟨by simp, by simp, by simp, by simp, by simp, replicate_cells_iff⟩
  accept _ _ _ h ha hb := h.of_accept ha hb
  abort b h ha := by
    obtain ⟨-, assembling, -, -, -, cells⟩ := h
    obtain ⟨-, hlt⟩ := assembling ha
    exact ⟨by simp, by simp, by simp, by simp, fun _ => hlt, cells⟩
  cancel b h := by
    obtain ⟨-, -, -, -, -, cells⟩ := h
    exact ⟨by simp, by simp, by simp, by simp, by simp, cells⟩

/-- Settles O10: every write of an instruction keeps the six invariants. -/
theorem stepKeepsStateInvariants : Obligations.StepKeepsStateInvariants :=
  fun _ _ hs h => Block.inv_kept.step hs h

/-! ### The truth of the verdict (R22) -/

/-- An accepted byte leaves no outcome, or the validator's on the bytes stored. -/
theorem Block.Inv.verdictHolds_of_accept {b b' : Block} {v : Byte} (h : b.Inv)
    (ha : b.asm = .assembling) (hb : b.accept v = .ok b') : b'.VerdictHolds := by
  obtain ⟨-, assembling, -⟩ := h
  obtain ⟨hres, -⟩ := assembling ha
  obtain ⟨hc, ⟨-, rfl⟩ | ⟨-, f, hf, rfl⟩⟩ := Block.accept_ok hb
  · simp [Block.VerdictHolds, hres]
  · have verdict := verify_res (rxFrame_length hf)
    rw [Block.VerdictHolds, Block.finish_rxbuf, Block.finish_res, hf, verdict]
    cases hv : frameValid f <;> simp [hv]

theorem Block.verdictHolds_kept : Block.Kept fun b => b.Inv ∧ b.VerdictHolds where
  reset := by decide
  setTx _ _ _ _ h := h
  arm := fun b ⟨hinv, _⟩ => ⟨Block.inv_kept.arm b hinv, by simp [Block.VerdictHolds]⟩
  accept := fun _ _ _ ⟨hinv, _⟩ ha hb => ⟨hinv.of_accept ha hb, hinv.verdictHolds_of_accept ha hb⟩
  abort := fun b ⟨hinv, _⟩ ha => ⟨Block.inv_kept.abort b hinv ha, by simp [Block.VerdictHolds]⟩
  cancel := fun b ⟨hinv, _⟩ => ⟨Block.inv_kept.cancel b hinv, by simp [Block.VerdictHolds]⟩

/-- Settles O11: `RES` is written with the verdict on the bytes stored, or with an outcome that
claims nothing of them. -/
theorem stepKeepsVerdictTrue : Obligations.StepKeepsVerdictTrue :=
  fun _ _ hinv hs h => (Block.verdictHolds_kept.step ⟨hinv, hs⟩ h).2

/-! ### The outbound frame (R24, R60) -/

theorem outboundFrame_valid (a c : Byte) (p : Vector Byte 6) :
    outboundValid (outboundFrame a c p) := by
  have frame : (outboundFrame a c p).toList = appendCrc (a :: c :: p.toList) :=
    outboundFrame_toList a c p
  have length : (a :: c :: p.toList).length = 8 := by simp
  rw [outboundValid, outboundFrame_take, frame, ← length, le16_appendCrc]

theorem Block.txHolds_kept : Block.Kept Block.TxHolds where
  reset := by simp [Block.TxHolds]
  setTx b a c p _ := by simpa [Block.TxHolds] using outboundFrame_valid a c p
  arm _ h := h
  accept b b' v h _ hb := by rwa [Block.TxHolds, Block.accept_txbuf hb]
  abort _ h _ := h
  cancel _ h := h

/-- Settles O12: only ENC writes `TXBUF`, and its frame is valid. -/
theorem stepKeepsTxFrameValid : Obligations.StepKeepsTxFrameValid :=
  fun _ _ hs h => Block.txHolds_kept.step hs h

/-- Settles O13: reset is the base case of all three. -/
theorem resetMeetsInvariants : Obligations.ResetMeetsInvariants :=
  ⟨Block.inv_kept.reset, Block.verdictHolds_kept.reset.2, Block.txHolds_kept.reset⟩

end Sys2Proof.Machine
end

section
/-! Proofs for the rules of the whole machine (20_memory.md R44 to R49, 10_state.md R24 to R27).
What a step does with the host's inputs, which operations read and write which elements, and where
the states R23 excludes stop. -/

namespace Sys2Proof.Machine

/-! ### The step (R44, R49) -/

theorem step_of_idle {s : State} (hs : s.inputs = []) : step s = .next s := by
  simp only [step, State.nextInput, hs]

theorem step_of_reset {s : State} {rest : List Input} (hs : s.inputs = .reset :: rest) :
    step s = .next (State.resetEvent { s with inputs := rest }) := by
  simp only [step, State.nextInput, hs]

/-- Settles O6: the first input is taken, and the decoder's answer decides what runs. -/
theorem stepRunsDecodedRequest : Obligations.StepRunsDecodedRequest :=
  fun _ _ _ _ hs hd => step_of_decode_ok hs hd

/-- Settles O7: there is no next input to take. -/
theorem idleStepHoldsState : Obligations.IdleStepHoldsState := fun _ hs => step_of_idle hs

/-- Settles O8: the reset event writes R32's block and nothing else. -/
theorem resetEventRestoresBlock : Obligations.ResetEventRestoresBlock := by
  intro s rest hs
  have stat : Block.reset.stat = 0x00 := by decide
  exact ⟨_, step_of_reset hs, rfl, rfl, rfl, fun k => Vector.getElem_replicate k.isLt, rfl, stat,
    rfl, rfl, rfl⟩

/-! ### No stop under R23 -/

/-- While assembling, R23 leaves room for a byte, and has seven values where it is the last. -/
theorem Block.Inv.exists_accept {b : Block} (h : b.Inv) (ha : b.asm = .assembling) (v : Byte) :
    ∃ b', b.accept v = .ok b' := by
  obtain ⟨-, assembling, -, -, -, cells⟩ := h
  obtain ⟨-, hlt⟩ := assembling ha
  rcases Nat.lt_succ_iff_lt_or_eq.1 hlt with early | seven
  · exact ⟨_, Block.accept_early v early⟩
  · have stored := set_count_cells_iff hlt v cells
    obtain ⟨f, hf⟩ := rxFrame_isSome (b.store v hlt).rxbuf fun i => (stored i).2 (by omega)
    exact ⟨_, Block.accept_eighth v seven hf⟩

theorem exec_goes_on (i : Instr) {s : State} (h : s.block.Inv) : ∃ t, exec i s = .next t := by
  cases i with
  | rxb v =>
    by_cases ha : s.block.asm = .assembling
    · obtain ⟨b, hb⟩ := h.exists_accept ha v
      exact ⟨_, exec_rxb_of_accept ha hb⟩
    · exact ⟨_, exec_rxb_of_not_assembling v ha⟩
  | abt =>
    by_cases ha : s.block.asm = .assembling
    · exact ⟨_, exec_abt_of_assembling ha⟩
    · exact ⟨_, exec_abt_of_not_assembling ha⟩
  | rdrx k =>
    rcases Nat.lt_or_ge k.toNat s.block.rxcnt.val with hk | hk
    · obtain ⟨v, hv⟩ := h.cell_value hk
      exact ⟨_, exec_rdrx_of_value hk hv⟩
    · exact ⟨_, exec_rdrx_of_le hk⟩
  | rdfr =>
    by_cases hv : s.block.asm = .done ∧ s.block.res = .ok
    · obtain ⟨f, hf⟩ := h.frame_of_ok hv.2
      exact ⟨_, exec_rdfr_of_frame hv.1 hv.2 hf⟩
    · exact ⟨_, exec_rdfr_of_not_verified hv⟩
  | rdtx k =>
    cases hf : s.block.txbuf with
    | none => exact ⟨_, exec_rdtx_of_none k hf⟩
    | some f =>
      rcases Nat.lt_or_ge k.toNat 10 with hk | hk
      · exact ⟨_, exec_rdtx_of_lt hf hk⟩
      · exact ⟨_, exec_rdtx_of_le hf hk⟩
  | crc | enc | vfy | clr | can | decU16 | decI16 | decU32 | decF32 | rdst => exact ⟨_, rfl⟩

/-- An instruction answers once, and takes no input. -/
theorem exec_answers {i : Instr} {s t : State} (h : exec i s = .next t) :
    t.inputs = s.inputs ∧ t.cfg = s.cfg ∧ ∃ a, t.responses = s.responses ++ [a] := by
  obtain ⟨a, b, rfl, -⟩ := exec_next h
  exact ⟨rfl, rfl, a, rfl⟩

/-- Settles O9: under R23 no instruction stops, and each branch of a step shows what it adds. -/
theorem everyStepAnswersOnce : Obligations.EveryStepAnswersOnce := by
  intro s hinv
  rcases step_cases s with ⟨hs, e⟩ | ⟨rest, hs, e⟩ | ⟨r, rest, i, hs, -, e⟩ | ⟨r, rest, x, hs, -, e⟩
  · exact ⟨s, e, by rw [hs]; rfl, rfl, by simp [hs], fun _ => rfl⟩
  · exact ⟨_, e, by rw [hs]; rfl, rfl, by simp [hs], fun _ => rfl⟩
  · obtain ⟨t, ht⟩ := exec_goes_on i (s := { s with inputs := rest }) hinv
    obtain ⟨inputs, cfg, answer⟩ := exec_answers ht
    exact ⟨t, e.trans ht, by rw [inputs, hs]; rfl, cfg, fun _ _ _ => answer, by simp [hs]⟩
  · exact ⟨_, e, by rw [hs]; rfl, rfl, fun _ _ _ => ⟨_, rfl⟩, by simp [hs]⟩

/-! ### Stops outside R23 (log entry 4) -/

theorem exec_rxb_of_fault {s : State} {v : Byte} {e : Fault} (ha : s.block.asm = .assembling)
    (hb : s.block.accept v = .error e) : exec (.rxb v) s = .fault e := by
  simp only [exec, execRxb, ha, hb]

theorem exec_rdrx_of_empty {s : State} {k : Byte} (hk : k.toNat < s.block.rxcnt.val)
    (hv : s.block.rxbuf[k.toNat]? = some none) : exec (.rdrx k) s = .fault .emptyCell := by
  obtain ⟨_, hcell⟩ := Vector.getElem?_eq_some_iff.1 hv
  simp only [exec, execRdrx, dif_pos hk, hcell]

theorem exec_rdfr_of_empty {s : State} (ha : s.block.asm = .done) (hr : s.block.res = .ok)
    (hf : rxFrame s.block.rxbuf = none) : exec .rdfr s = .fault .emptyCell := by
  simp only [exec, execRdfr, if_pos (And.intro ha hr), hf]

theorem Block.accept_of_full {b : Block} (v : Byte) (h : b.rxcnt = 8) :
    b.accept v = .error .rxOverrun := dif_neg (by rw [h]; decide)

/-- The eighth byte does not fill a cell that was skipped. -/
theorem Block.accept_of_empty_cell {b : Block} (v : Byte) (h : b.rxcnt = 7) {j : Nat} (hj : j < 7)
    (hcell : b.rxbuf[j] = none) : b.accept v = .error .emptyCell := by
  have h7 : b.rxcnt.val = 7 := congrArg Fin.val h
  have hc : b.rxcnt.val < 8 := by omega
  have kept : (b.store v hc).rxbuf[j] = none := by
    rw [Block.store_rxbuf, Vector.getElem_set_ne _ _ (by omega), hcell]
  unfold Block.accept Block.recognise
  rw [dif_pos hc, if_pos (show (b.store v hc).rxcnt.val = 8 from congrArg (· + 1) h7),
    rxFrame_eq_none (by omega) kept]

/-- Settles O44: no cell 8 to store in, no frame of eight values, or no value to answer. -/
theorem excludedStatesStopByName : Obligations.ExcludedStatesStopByName := by
  intro s v k
  refine ⟨fun ha hn => ?full, fun ha hn ⟨j, hj⟩ => ?skipped, exec_rdrx_of_empty,
    fun ha hr ⟨j, hj⟩ => ?frame⟩
  case full => exact exec_rxb_of_fault ha (Block.accept_of_full v hn)
  case skipped => exact exec_rxb_of_fault ha (Block.accept_of_empty_cell v hn j.isLt hj)
  case frame => exact exec_rdfr_of_empty ha hr (rxFrame_eq_none j.isLt hj)

/-! ### What an answer depends on (R46, R102) -/

/-- DEC of any kind answers from its operands and the parameters. -/
theorem answerDec_of_cfg {s : State} {cfg : Config} (h : s.cfg = cfg) (k : DecKind) (o : Byte)
    (xs : List Byte) :
    answerDec k o xs s = .next (s.respond
      { st := .ok
        val := some (dec cfg k xs o.toNat).1
        short := some (dec cfg k xs o.toNat).2 }) := h ▸ answerDec_eq k o xs s

/-- A read-only instruction stops, or gives one answer in all states with this block and these
parameters and writes nothing. -/
theorem exec_of_readsOnly {i : Instr} (hi : readsOnly i = true) (s : State) :
    (∃ e, exec i s = .fault e) ∨
    ∃ a, ∀ u : State, u.block = s.block → u.cfg = s.cfg → exec i u = .next (u.respond a) := by
  cases i with
  | enc | clr | rxb | abt | can => cases hi
  | crc | vfy => exact .inr ⟨_, fun _ _ _ => rfl⟩
  | decU16 | decI16 | decU32 | decF32 => exact .inr ⟨_, fun u _ hc => answerDec_of_cfg hc ..⟩
  | rdst => exact .inr ⟨_, fun u hb _ => hb ▸ exec_rdst u⟩
  | rdrx k =>
    rcases Nat.lt_or_ge k.toNat s.block.rxcnt.val with hk | hk
    · have cell : s.block.rxbuf[k.toNat]? = some s.block.rxbuf[k.toNat] :=
        Vector.getElem?_eq_getElem _
      cases hv : s.block.rxbuf[k.toNat] with
      | none => exact .inl ⟨_, exec_rdrx_of_empty hk (hv ▸ cell)⟩
      | some v =>
        exact .inr ⟨_, fun u hb _ => exec_rdrx_of_value (hb ▸ hk) (hb ▸ hv ▸ cell)⟩
    · exact .inr ⟨_, fun u hb _ => exec_rdrx_of_le (hb ▸ hk)⟩
  | rdfr =>
    by_cases hv : s.block.asm = .done ∧ s.block.res = .ok
    · cases hf : rxFrame s.block.rxbuf with
      | none => exact .inl ⟨_, exec_rdfr_of_empty hv.1 hv.2 hf⟩
      | some f =>
        exact .inr ⟨_, fun u hb _ => exec_rdfr_of_frame (hb ▸ hv.1) (hb ▸ hv.2) (hb ▸ hf)⟩
    · exact .inr ⟨_, fun u hb _ => exec_rdfr_of_not_verified (hb ▸ hv)⟩
  | rdtx k =>
    cases hf : s.block.txbuf with
    | none => exact .inr ⟨_, fun u hb _ => exec_rdtx_of_none k (hb ▸ hf)⟩
    | some f =>
      rcases Nat.lt_or_ge k.toNat 10 with hk | hk
      · exact .inr ⟨_, fun u hb _ => exec_rdtx_of_lt (hb ▸ hf) hk⟩
      · exact .inr ⟨_, fun u hb _ => exec_rdtx_of_le (hb ▸ hf) hk⟩

/-- Settles O36: the answer depends on the block and the parameters, which are as before. -/
theorem readOnlyRequestsRepeat : Obligations.ReadOnlyRequestsRepeat := by
  intro i s t hi h
  rcases exec_of_readsOnly hi s with ⟨e, stops⟩ | ⟨a, answers⟩
  · rw [stops] at h
    cases h
  · rw [answers s rfl rfl] at h
    cases h
    exact ⟨rfl, a, rfl, answers _ rfl rfl⟩

/-- Settles O40: the answers are made of the operands, and DEC's also of the parameters. -/
theorem codecAnswersIgnoreBlock : Obligations.CodecAnswersIgnoreBlock := by
  intro i s₁ s₂ hi hcfg
  cases i with
  | clr | rxb | abt | can | rdst | rdrx | rdfr | rdtx => cases hi
  | crc | enc | vfy => exact ⟨_, _, _, rfl, rfl, rfl, rfl, rfl, rfl, rfl, rfl⟩
  | decU16 | decI16 | decU32 | decF32 =>
    exact ⟨_, _, _, answerDec_of_cfg hcfg .., answerDec_of_cfg rfl .., rfl, rfl, rfl, rfl, rfl, rfl⟩

/-- Settles O41: RDFR answers the stored frame only under `RES = OK`, which the recorded verdict
makes a valid one. -/
theorem rdfrHandsOutOnlyValidFrames : Obligations.RdfrHandsOutOnlyValidFrames := by
  intro s t f ⟨okMeansValid, _⟩ h answered
  by_cases hv : s.block.asm = .done ∧ s.block.res = .ok
  · obtain ⟨ha, hr⟩ := hv
    obtain ⟨g, hg, hgv⟩ := (Option.any_eq_true _ _).1 (okMeansValid hr)
    rw [exec_rdfr_of_frame ha hr hg] at h
    cases h
    have same : g = f := by simpa using answered
    exact same ▸ hgv
  · rw [exec_rdfr_of_not_verified hv] at h
    cases h
    simp at answered

/-! ### What writes each element (R24, R25, R27) -/

/-- Settles O37: the two instructions that write `RXBUF` are seen cell by cell. -/
theorem buffersHaveOneWriter : Obligations.BuffersHaveOneWriter := by
  intro i s t h
  refine ⟨fun changed => ?tx, fun k changed => ?cell⟩
  case tx =>
    by_contra other
    simp only [not_exists] at other
    exact changed (exec_keeps_txbuf other h)
  case cell =>
    obtain ⟨a, b, rfl, rfl | ⟨x, y, p, -, rfl⟩ | ⟨rfl, rfl⟩ | ⟨v, rfl, ha, hb⟩ | ⟨-, -, rfl⟩ |
      ⟨-, rfl⟩⟩ := exec_next h
    · exact absurd rfl changed
    · exact absurd rfl changed
    · exact .inl ⟨rfl, Vector.getElem_replicate k.isLt⟩
    · obtain ⟨hc, buf, -⟩ := Block.accept_stores hb
      rw [State.respond_block, State.withBlock_block, buf, Fin.getElem_fin] at changed ⊢
      have atCount : s.block.rxcnt.val = k.val := by
        by_contra ne
        exact changed (Vector.getElem_set_ne _ _ ne)
      exact .inr ⟨v, rfl, ha, atCount.symm, by simp [atCount]⟩
    · exact absurd rfl changed
    · exact absurd rfl changed

/-- Settles O38: of the block's writes only CLR's and an accepted byte's touch the count. -/
theorem countAdvancesByOne : Obligations.CountAdvancesByOne := by
  intro i s t h changed
  obtain ⟨a, b, rfl, rfl | ⟨x, y, p, -, rfl⟩ | ⟨rfl, rfl⟩ | ⟨v, rfl, ha, hb⟩ | ⟨-, -, rfl⟩ |
    ⟨-, rfl⟩⟩ := exec_next h
  · exact absurd rfl changed
  · exact absurd rfl changed
  · exact .inl ⟨rfl, rfl⟩
  · obtain ⟨-, -, count⟩ := Block.accept_stores hb
    exact .inr ⟨v, rfl, ha, count⟩
  · exact absurd rfl changed
  · exact absurd rfl changed

/-- Settles O39: an accepted byte ends the attempt only as the eighth. -/
theorem phaseChangesOnlyAsListed : Obligations.PhaseChangesOnlyAsListed := by
  intro i s t h changed
  obtain ⟨a, b, rfl, rfl | ⟨x, y, p, -, rfl⟩ | ⟨rfl, rfl⟩ | ⟨v, rfl, ha, hb⟩ | ⟨rfl, ha, rfl⟩ |
    ⟨rfl, rfl⟩⟩ := exec_next h
  · exact absurd rfl changed
  · exact absurd rfl changed
  · exact .inl ⟨rfl, rfl⟩
  · obtain ⟨hc, ⟨-, rfl⟩ | ⟨h7, f, -, rfl⟩⟩ := Block.accept_ok hb
    · exact absurd rfl changed
    · exact .inr (.inr ⟨rfl, ha, .inr ⟨v, rfl, h7⟩⟩)
  · exact .inr (.inr ⟨rfl, ha, .inl rfl⟩)
  · exact .inr (.inl ⟨rfl, rfl⟩)

end Sys2Proof.Machine
end
